-- ==== Sys2Proof/Word.lean ====
section
/-!
DEFINITION. The word types of the Ondrel 4803: bytes of the feeder stream and engine time.
-/

namespace Sys2Proof

/-- One byte of the feeder stream (section 5.6). -/
abbrev Byte := BitVec 8

/-- Engine time: a 32-bit count of milliseconds that wraps (R1). -/
abbrev Time := BitVec 32

end Sys2Proof
end

