-- ==== Sys2Proof/Syntax.lean ====
section
/-!
DEFINITION. The commands of the Ondrel 4803: one constructor for each row of spec/opcode_table.json,
with the operands the row's step takes. A management command carries its tag and its raw parameter
bytes (R121, R166), so that every size and range check is part of its meaning.
-/

namespace Sys2Proof

/-- The two ports of the engine (R120). -/
inductive Port where
  | sensor
  | controller
deriving DecidableEq, Repr

/-- The three phases, in the order A, B, C (section 5.1). -/
inductive Phase where
  | a
  | b
  | c
deriving DecidableEq, Repr

/-- The commands: what can happen to the engine, each whole and indivisible (spec/95). -/
inductive Instr where
  /-- HARD_RESET (R136): the strap pins read `strap`. -/
  | hardReset (strap : BitVec 2)
  /-- LENGTH_ERROR (R124): `bytes` complete the four header bytes at a port. -/
  | lengthError (port : Port) (bytes : List Byte)
  /-- FRAME_CHECK (R125): `bytes` complete a frame, its second CRC byte last. -/
  | frameCheck (port : Port) (bytes : List Byte)
  /-- SILENCE_EXPIRY (R28). -/
  | silenceExpiry (node : Nat)
  /-- MOTION_HOLD_EXPIRY (R37). -/
  | motionHoldExpiry (node : Nat) (phase : Phase)
  /-- FEEDER_EVALUATION_EXPIRY (R61). -/
  | feederEvaluationExpiry (feeder : Fin 4)
  /-- LOSS_RECORD_EXPIRY (R75). -/
  | lossRecordExpiry (zone : Nat)
  /-- STEP_TIMER_EXPIRY (R88). -/
  | stepTimerExpiry (zone : Nat)
  /-- TRIP_MEMORY_EXPIRY (R95). -/
  | tripMemoryExpiry (zone : Nat)
  /-- GRACE_EXPIRY (R98). -/
  | graceExpiry (zone : Nat)
  /-- PRESENCE_UPDATE (R132): of the oldest accepted frame whose update is due. -/
  | presenceUpdate
  /-- CONTROLLER_FRAME_ROUTING (R128): of the oldest accepted frame whose routing is due. -/
  | controllerFrameRouting
  /-- CONTROLLER_SILENCE_EXPIRY (R132). -/
  | controllerSilenceExpiry
  /-- CONTROLLER_TX_START (R130). -/
  | controllerTxStart
  /-- CONTROLLER_TX_END (R130). -/
  | controllerTxEnd
  /-- SENSOR_TX_START (R129). -/
  | sensorTxStart
  /-- SENSOR_TX_END (R129). -/
  | sensorTxEnd
  /-- PULSE_EXPIRY (R178). -/
  | pulseExpiry
  /-- BAD_COMMAND (R166): a command code the table of R121 does not list, or 0x00. -/
  | badCommand (code tag : Byte) (params : List Byte)
  /-- IDENTIFY (R169). -/
  | identify (tag : Byte) (params : List Byte)
  /-- READ_STATUS (R169). -/
  | readStatus (tag : Byte) (params : List Byte)
  /-- READ_NODE (R170). -/
  | readNode (tag : Byte) (params : List Byte)
  /-- READ_ZONE (R170). -/
  | readZone (tag : Byte) (params : List Byte)
  /-- READ_HEALTH (R170). -/
  | readHealth (tag : Byte) (params : List Byte)
  /-- READ_COUNTERS (R171). -/
  | readCounters (tag : Byte) (params : List Byte)
  /-- CLEAR_COUNTERS (R171). -/
  | clearCounters (tag : Byte) (params : List Byte)
  /-- CLEAR_HEALTH_NODE (R31). -/
  | clearHealthNode (tag : Byte) (params : List Byte)
  /-- LOAD_HEADER (R153). -/
  | loadHeader (tag : Byte) (params : List Byte)
  /-- LOAD_NODE (R154). -/
  | loadNode (tag : Byte) (params : List Byte)
  /-- LOAD_ZONE_PROFILE (R153). -/
  | loadZoneProfile (tag : Byte) (params : List Byte)
  /-- LOAD_CHANNEL_PROFILE (R153). -/
  | loadChannelProfile (tag : Byte) (params : List Byte)
  /-- CLEAR_STAGED (R155). -/
  | clearStaged (tag : Byte) (params : List Byte)
  /-- READ_TABLE (R156). -/
  | readTable (tag : Byte) (params : List Byte)
  /-- ACTIVATE (R160). -/
  | activate (tag : Byte) (params : List Byte)
  /-- SET_MODE (R62). -/
  | setMode (tag : Byte) (params : List Byte)
  /-- RELEASE_ZONE (R92). -/
  | releaseZone (tag : Byte) (params : List Byte)
  /-- CLEAR_LOCKOUT (R93). -/
  | clearLockout (tag : Byte) (params : List Byte)
  /-- BAR_NODE (R32). -/
  | barNode (tag : Byte) (params : List Byte)
  /-- ADMIT_NODE (R33). -/
  | admitNode (tag : Byte) (params : List Byte)
  /-- CAPTURE_NOW (R148). -/
  | captureNow (tag : Byte) (params : List Byte)
  /-- READ_CAPTURE (R146). -/
  | readCapture (tag : Byte) (params : List Byte)
  /-- FREE_CAPTURE (R147). -/
  | freeCapture (tag : Byte) (params : List Byte)
  /-- PROVE_ZONE (R176). -/
  | proveZone (tag : Byte) (params : List Byte)
  /-- PROVE_LINE (R178). -/
  | proveLine (tag : Byte) (params : List Byte)
  /-- CANCEL_PROOF (R179). -/
  | cancelProof (tag : Byte) (params : List Byte)
  /-- RESTART_ENGINE (R173). -/
  | restartEngine (tag : Byte) (params : List Byte)
  /-- SYNC_PAIR_FOUND (R123): `bytes` are examined by a hunting receiver. -/
  | syncPairFound (port : Port) (bytes : List Byte)
deriving DecidableEq, Repr

end Sys2Proof
end

