-- ==== Sys2Proof/Decode.lean ====
section
/-!
DEFINITION. The decoder of words. No row of spec/opcode_table.json gives bits: the commands of the engine are events
and MANAGE frames, which the stream spells in bytes (R121, R166), and no word spells one.
-/

namespace Sys2Proof

/-- The command a word of `nbits` bits spells: none, since the table gives no row any bits. -/
def decodeTableWord (_nbits _w : Nat) : Option Instr := none

end Sys2Proof
end

