-- ==== Sys2Proof/Machine/Bits.lean ====
section
/-!
DEFINITION. Bytes and numbers: big-endian fields (section 5.6, R121), saturating counts and rounding
(R2), and the comparison of engine times (section 5.3).
-/

namespace Sys2Proof.Machine

/-- A count that gains `n` and stops at `top` (R2: counters saturate). -/
def satAdd (top n k : Nat) : Nat := min top (n + k)

/-- `x` clamped to the range `lo` to `hi` (R2). -/
def clamp (lo hi x : Int) : Int := max lo (min hi x)

/-- Division truncated toward zero (R2). -/
def truncDiv (x d : Int) : Int := Int.tdiv x d

/-- A two-byte field, most significant byte first. -/
def u16 (hi lo : Byte) : Nat := hi.toNat * 256 + lo.toNat

/-- A byte field from a number. -/
def byteOf (n : Nat) : Byte := BitVec.ofNat 8 n

/-- A number as two bytes, most significant first. -/
def be16 (n : Nat) : List Byte := [byteOf (n / 256), byteOf n]

/-- A number as four bytes, most significant first. -/
def be32 (n : Nat) : List Byte := [byteOf (n / 16777216), byteOf (n / 65536), byteOf (n / 256), byteOf n]

/-- A signed two-byte field in two's complement (R121). -/
def be16s (x : Int) : List Byte := be16 (BitVec.ofInt 16 x).toNat

/-- A signed four-byte field in two's complement (R121). -/
def be32s (x : Int) : List Byte := be32 (BitVec.ofInt 32 x).toNat

/-- The byte at an offset of a payload, 0 beyond its end. -/
def byteAt (bytes : List Byte) (at_ : Nat) : Byte := bytes.getD at_ 0

/-- The two-byte field at an offset of a payload. -/
def u16At (bytes : List Byte) (at_ : Nat) : Nat := u16 (byteAt bytes at_) (byteAt bytes (at_ + 1))

/-- The four-byte field at an offset of a payload. -/
def u32At (bytes : List Byte) (at_ : Nat) : Nat := u16At bytes at_ * 65536 + u16At bytes (at_ + 2)

/-- A flag of one byte: 0 clear or no, 1 set or yes (R121). -/
def flagByte (b : Bool) : Byte := if b then 1 else 0

/-- A deadline is reached when (now - deadline), modulo 2^32, is below 2^31 (section 5.3). -/
def reached (now deadline : Time) : Bool := decide ((now - deadline).toNat < 2147483648)

/-- The deadline is set, and it is reached. -/
def due (now : Time) : Option Time → Bool
  | none => false
  | some d => reached now d

/-- The engine time `ms` milliseconds after `now`. -/
def after (now : Time) (ms : Nat) : Time := now + BitVec.ofNat 32 ms

/-- The milliseconds that remain of a deadline: 0 when it is none, or reached and not yet taken (R41). -/
def remaining (now : Time) : Option Time → Nat
  | none => 0
  | some d => if reached now d then 0 else (d - now).toNat

end Sys2Proof.Machine
end

