-- ==== Sys2Proof/Config.lean ====
section
/-!
DEFINITION. What the part fixes: its identification (R169), its capacities (section 6) and the sync
pair (R121). The spec leaves no result value open, so there is no free value here.
-/

namespace Sys2Proof.Config

/-- Part code of the Ondrel 4803 (R169). -/
def partCode : Nat := 0x4803

/-- Revision of the part (R169). -/
def revision : Nat := 2

/-- Node records, and so zones at most (section 6). -/
def nodeCount : Nat := 48

/-- Zone profiles (section 6). -/
def zoneProfileCount : Nat := 16

/-- Channel profiles (section 6). -/
def channelProfileCount : Nat := 8

/-- Frames the forward FIFO holds (R127). -/
def forwardCapacity : Nat := 64

/-- Frames the sensor-port transmit queue holds (R129). -/
def sensorQueueCapacity : Nat := 16

/-- Entries the reply queue holds (R167). -/
def replyCapacity : Nat := 4

/-- Capture records a history ring holds (R140). -/
def ringCapacity : Nat := 128

/-- Entries the effective downstream list holds (R8). -/
def boundaryCapacity : Nat := 8

/-- Depth of the deepest position, the HEAD counted as 1 (R3). -/
def maxDepth : Nat := 16

/-- Children a position may have (R3). -/
def maxChildren : Nat := 4

/-- Longest payload (R121). -/
def maxPayload : Nat := 200

/-- The sync pair (R121). -/
def sync0 : Byte := 0xC5
def sync1 : Byte := 0x3A

end Sys2Proof.Config
end

