-- ==== Sys2Proof/Machine/Shapes.lean ====
section
/-!
DEFINITION. Two small containers of fixed size: one value per phase, and one value per feeder, trip
line or capture slot. They are plain records, so that a state holds no function.
-/

namespace Sys2Proof.Machine

/-- One value for each of the phases A, B and C. -/
structure PerPhase (α : Type) where
  a : α
  b : α
  c : α
deriving DecidableEq, Repr

/-- One value for each of four feeders, lines or slots. -/
structure Four (α : Type) where
  n0 : α
  n1 : α
  n2 : α
  n3 : α
deriving DecidableEq, Repr

/-- The phases in order (section 5.1). -/
def phases : List Phase := [.a, .b, .c]

def PerPhase.get {α : Type} (t : PerPhase α) : Phase → α
  | .a => t.a
  | .b => t.b
  | .c => t.c

def PerPhase.set {α : Type} (t : PerPhase α) (p : Phase) (x : α) : PerPhase α :=
  match p with
  | .a => { t with a := x }
  | .b => { t with b := x }
  | .c => { t with c := x }

/-- The same value on every phase. -/
def PerPhase.all {α : Type} (x : α) : PerPhase α := ⟨x, x, x⟩

/-- The value made from each phase. -/
def PerPhase.of {α : Type} (f : Phase → α) : PerPhase α := ⟨f .a, f .b, f .c⟩

def PerPhase.map {α β : Type} (f : α → β) (t : PerPhase α) : PerPhase β := ⟨f t.a, f t.b, f t.c⟩

/-- The values in the order A, B, C. -/
def PerPhase.toList {α : Type} (t : PerPhase α) : List α := [t.a, t.b, t.c]

def Four.get {α : Type} (t : Four α) : Fin 4 → α
  | 0 => t.n0
  | 1 => t.n1
  | 2 => t.n2
  | 3 => t.n3

def Four.set {α : Type} (t : Four α) (i : Fin 4) (x : α) : Four α :=
  match i with
  | 0 => { t with n0 := x }
  | 1 => { t with n1 := x }
  | 2 => { t with n2 := x }
  | 3 => { t with n3 := x }

/-- The same value four times. -/
def Four.all {α : Type} (x : α) : Four α := ⟨x, x, x, x⟩

/-- The value made from each number. -/
def Four.of {α : Type} (f : Fin 4 → α) : Four α := ⟨f 0, f 1, f 2, f 3⟩

/-- The values in the order 0, 1, 2, 3. -/
def Four.toList {α : Type} (t : Four α) : List α := [t.n0, t.n1, t.n2, t.n3]

/-- The numbers 0 to 3. -/
def four : List (Fin 4) := [0, 1, 2, 3]

end Sys2Proof.Machine
end

