-- ==== Sys2Proof/Machine/Records.lean ====
section
/-!
DEFINITION. The records of the engine's blocks, as plain data, with the values they hold when fresh:
tables (R152), nodes and channels (R19, R42), zones (R5, R65, R83), feeders (R60), verdicts (R106),
frames and receivers (R121, R123), replies (R167), capture (R139, R141), proofs (R175), counters (R134).
-/

namespace Sys2Proof.Machine

/-! ## Tables (R152, section 9.2) -/

/-- The role of a node record (R3). -/
inductive Role where
  | head
  | node
  | twin
deriving DecidableEq, Repr

/-- The mode of a feeder (R60). -/
inductive Mode where
  | standard
  | heightened
  | inhibited
deriving DecidableEq, Repr

/-- The policy of a trip line (R112). -/
inductive LinePolicy where
  | unused
  | direct
  | backup
deriving DecidableEq, Repr

/-- What DEGRADED does beyond reporting (R84). -/
inductive LossAction where
  | report
  | safeTrip
deriving DecidableEq, Repr

/-- The header of a table copy (section 9.2). -/
structure Header where
  periods : Four Nat
  silenceLimit : Nat
  policies : Four LinePolicy
  /-- bit 0 SUSPECT, bit 1 TRIP, bit 2 MOTION -/
  triggerMask : BitVec 3
  preCount : Nat
  postCount : Nat
deriving DecidableEq, Repr

/-- The zone part of a HEAD or NODE record (section 9.2). -/
structure ZonePart where
  standardProfile : Fin 16
  heightenedProfile : Fin 16
  tripMask : BitVec 4
deriving DecidableEq, Repr

/-- A present record of the node table (section 9.2). -/
structure NodeRec where
  address : Byte
  feeder : Fin 4
  role : Role
  parent : Option Nat
  twin : Option Nat
  voltageSensing : Bool
  channelProfile : Fin 8
  autoReturn : Bool
  autoBar : Bool
  zonePart : Option ZonePart
deriving DecidableEq, Repr

/-- The weights of the five indications (R63). -/
structure Weights where
  open_ : Nat
  leak : Nat
  arc : Nat
  motion : Nat
  lost : Nat
deriving DecidableEq, Repr

/-- A zone profile (section 9.2, R63, R84). -/
structure ZoneProfile where
  vLive : Nat
  rhoOpen : Nat
  dEnd : Nat
  dLost : Nat
  leakThreshold : Nat
  kb : Nat
  weights : Weights
  decay : Nat
  tSuspect : Nat
  tConfirm : Nat
  stepTime : Nat
  lockoutLimit : Nat
  tripMemory : Nat
  lossAction : LossAction
  degradeGrace : Nat
  lossWindow : Nat
deriving DecidableEq, Repr

/-- One number for each health attribute (R19). -/
structure Health where
  gaps : Nat
  stales : Nat
  silences : Nat
  saturations : Nat
deriving DecidableEq, Repr

/-- A channel profile (section 9.2, R42). -/
structure ChannelProfile where
  kf : Nat
  ks : Nat
  iMin : Nat
  kl : Nat
  hCap : Nat
  sOn : Nat
  sOff : Nat
  arcReleaseCount : Nat
  silenceLimit : Nat
  warmUpCount : Nat
  motionHold : Nat
  thresholds : Health
deriving DecidableEq, Repr

/-- One copy of the detection tables (R152). -/
structure Tables where
  header : Header
  nodes : List (Option NodeRec)
  zoneProfiles : List ZoneProfile
  channelProfiles : List ChannelProfile
deriving DecidableEq, Repr

/-- The header's defaults (section 9.2). -/
def Header.default : Header where
  periods := .all 50
  silenceLimit := 1000
  policies := .all .unused
  triggerMask := 7
  preCount := 64
  postCount := 256

/-- A zone profile's defaults (section 9.2). -/
def ZoneProfile.default : ZoneProfile where
  vLive := 3000
  rhoOpen := 600
  dEnd := 700
  dLost := 400
  leakThreshold := 30
  kb := 8
  weights := ⟨8, 4, 3, 6, 6⟩
  decay := 2
  tSuspect := 8
  tConfirm := 24
  stepTime := 3000
  lockoutLimit := 2
  tripMemory := 3600000
  lossAction := .report
  degradeGrace := 5000
  lossWindow := 1500

/-- A channel profile's defaults (section 9.2). -/
def ChannelProfile.default : ChannelProfile where
  kf := 2
  ks := 6
  iMin := 50
  kl := 3
  hCap := 500
  sOn := 600
  sOff := 300
  arcReleaseCount := 8
  silenceLimit := 100
  warmUpCount := 128
  motionHold := 2000
  thresholds := ⟨0, 0, 0, 0⟩

/-- An empty copy: every node record absent, profiles and header at their defaults (R152, R155). -/
def Tables.empty : Tables where
  header := .default
  nodes := List.replicate Config.nodeCount none
  zoneProfiles := List.replicate Config.zoneProfileCount .default
  channelProfiles := List.replicate Config.channelProfileCount .default

/-! ## Nodes and channels (R19, R42) -/

/-- The state of a node (R19). -/
inductive NodeState where
  | expected
  | warming
  | live
  | silent
  | barred
deriving DecidableEq, Repr

/-- Why a node was barred (R19); none is the absence of a reason. -/
inductive BarReason where
  | mismatch
  | health
  | command
deriving DecidableEq, Repr

/-- A channel record: one phase of one node (R42). -/
structure Channel where
  iLast : Nat
  vLast : Nat
  hLast : Nat
  hPrev : Nat
  iFast16 : Nat
  iSlow16 : Nat
  score : Nat
  arcFlag : Bool
  arcRun : Nat
  saturated : Bool
  seeded : Bool
deriving DecidableEq, Repr

/-- A new channel record (R56). -/
def Channel.fresh : Channel := ⟨0, 0, 0, 0, 0, 0, 0, false, 0, false, false⟩

/-- A runtime node record (R19) with its three channel records (R42). -/
structure NodeRun where
  state : NodeState
  barReason : Option BarReason
  unitClass : Option Byte
  seqExpect : Option Byte
  silenceDeadline : Option Time
  warmUp : Nat
  health : Health
  exceeded : Bool
  motionHold : PerPhase (Option Time)
  channels : PerPhase Channel
deriving DecidableEq, Repr

/-- A new runtime record (R38), with new channel records (R56). -/
def NodeRun.fresh : NodeRun where
  state := .expected
  barReason := none
  unitClass := none
  seqExpect := none
  silenceDeadline := none
  warmUp := 0
  health := ⟨0, 0, 0, 0⟩
  exceeded := false
  motionHold := .all none
  channels := .all .fresh

/-! ## Zones (R5, R65, R83) -/

/-- Whether a zone can be judged, and if not, why (R5). -/
inductive Evaluability where
  | evaluable
  | absorbed
  | headLost
  | boundaryOverflow
deriving DecidableEq, Repr

/-- An entry of the effective downstream list (R5). -/
structure Boundary where
  position : Nat
  source : Nat
  twinInUse : Bool
deriving DecidableEq, Repr

/-- The topology record of a zone (R5). -/
structure Topology where
  position : Nat
  source : Option Nat
  twinInUse : Bool
  evaluability : Evaluability
  host : Option Nat
  count : Nat
  list : List Boundary
  absorbed : List Nat
deriving DecidableEq, Repr

/-- The record of a fresh zone: EVALUABLE, no source, no boundary, no member (R17). -/
def Topology.fresh (zone : Nat) : Topology := ⟨zone, none, false, .evaluable, none, 0, [], []⟩

/-- A set of the five indications (R65). -/
structure Indications where
  open_ : Bool
  leak : Bool
  arc : Bool
  motion : Bool
  lost : Bool
deriving DecidableEq, Repr

/-- No indication. -/
def Indications.none : Indications := ⟨false, false, false, false, false⟩

/-- The part of the evaluation record kept per phase (R65). -/
structure PhaseEval where
  baseline : Int
  reseed : Bool
  residual : Int
  excess : Int
  indications : Indications
  score : Nat
deriving DecidableEq, Repr

/-- The evaluation record of a zone (R65). -/
structure Evaluation where
  evidence : Nat
  perPhase : PerPhase PhaseEval
  score : Nat
  faulted : Option Phase
  lossRecord : Option Time
  lastEvaluation : Option Time
deriving DecidableEq, Repr

/-- A fresh evaluation record (R81). -/
def Evaluation.fresh : Evaluation where
  evidence := 0
  perPhase := .all ⟨0, true, 0, 0, .none, 0⟩
  score := 0
  faulted := none
  lossRecord := none
  lastEvaluation := none

/-- Where a zone stands (R83). -/
inductive ZoneState where
  | normal
  | suspect
  | tripped
  | lockout
  | absorbed
  | degraded
deriving DecidableEq, Repr

/-- Why a zone last entered TRIPPED, LOCKOUT or DEGRADED (R83); none is the absence of a reason. -/
inductive Reason where
  | evidence
  | blind
  | headLost
  | boundaryOverflow
deriving DecidableEq, Repr

/-- The zone state record (R83). -/
structure ZoneRecord where
  state : ZoneState
  reason : Option Reason
  trips : Nat
  stepDeadline : Option Time
  wouldTrip : Bool
  graceDeadline : Option Time
  memoryDeadline : Option Time
deriving DecidableEq, Repr

/-- A fresh zone state record (R102). -/
def ZoneRecord.fresh : ZoneRecord := ⟨.normal, none, 0, none, false, none, none⟩

/-- The three records of a zone. -/
structure Zone where
  run : ZoneRecord
  eval : Evaluation
  topo : Topology
deriving DecidableEq, Repr

/-- A fresh zone (R17, R81, R102). -/
def Zone.fresh (zone : Nat) : Zone := ⟨.fresh, .fresh, .fresh zone⟩

/-- A feeder record (R60). -/
structure Feeder where
  deadline : Option Time
  requested : Mode
  effective : Mode
deriving DecidableEq, Repr

/-- A feeder record after hard reset (R81). -/
def Feeder.fresh : Feeder := ⟨none, .standard, .standard⟩

/-! ## Verdicts (R106) -/

/-- The eight verdict kinds (section 6.1). -/
inductive VerdictKind where
  | advisory
  | wouldTrip
  | trip
  | lockout
  | degraded
  | restored
  | absorbed
  | cleared
deriving DecidableEq, Repr

/-- An entry of the verdict queue (R106). -/
structure VerdictEntry where
  zone : Nat
  address : Byte
  feeder : Fin 4
  kind : VerdictKind
  /-- bit (code - 1) set for each kind raised (R121) -/
  history : BitVec 8
  state : ZoneState
  faulted : Option Phase
  indications : Indications
  evidence : Nat
  trips : Nat
  reason : Option Reason
  raised : Time
deriving DecidableEq, Repr

/-- Whether the controller is present (R132). -/
inductive Presence where
  | absent
  | present
deriving DecidableEq, Repr

/-! ## The stream (R121, R123, R167) -/

/-- A frame between the sync pair and its CRC, with the CRC as received (R120, R121). -/
structure Frame where
  kind : Byte
  address : Byte
  sequence : Byte
  payload : List Byte
  crc : BitVec 16
deriving DecidableEq, Repr

/-- The phase of a receiver (R123 to R125). -/
inductive Receiver where
  /-- hunting: a candidate 0xC5 is held, bytes of this episode were skipped -/
  | hunting (candidate skipped : Bool)
  /-- the bytes collected since the sync pair -/
  | collecting (got : List Byte)
deriving DecidableEq, Repr

/-- The status of a REPLY (R121). -/
inductive Status where
  | done
  | accepted
  | busy
  | badCommand
  | badParam
  | wrongState
  | badTable
  | refusedTripped
  | notConfigured
  | takenOver
  | abandoned
  | cancelled
deriving DecidableEq, Repr

/-- An entry of the reply queue (R167). -/
structure ReplyEntry where
  code : Byte
  tag : Byte
  status : Status
  data : List Byte
deriving DecidableEq, Repr

/-- The counters of one port (R134); `drops` are forward drops at the sensor port and transmit queue
drops at the controller port. -/
structure PortCounters where
  accepted : Nat
  slips : Nat
  lengthErrors : Nat
  crcErrors : Nat
  drops : Nat
deriving DecidableEq, Repr

/-- The fourteen counters (R134). -/
structure Counters where
  sensor : PortCounters
  controller : PortCounters
  discards : Nat
  unknownSource : Nat
  unidentified : Nat
  unknownAlerts : Nat
deriving DecidableEq, Repr

/-- All fourteen counters at 0. -/
def Counters.zero : Counters := ⟨⟨0, 0, 0, 0, 0⟩, ⟨0, 0, 0, 0, 0⟩, 0, 0, 0, 0⟩

/-! ## Capture (R139, R141) -/

/-- The report of one phase in a CYCLE frame (R121). -/
structure Measure where
  i : Nat
  v : Nat
  h : Nat
deriving DecidableEq, Repr

/-- A capture record (R139). -/
structure CaptureRecord where
  address : Byte
  sequence : Byte
  time : Time
  flags : Byte
  values : PerPhase Measure
deriving DecidableEq, Repr

/-- The kinds of capture trigger (R142). -/
inductive TriggerKind where
  | suspect
  | trip
  | motion
  | captureNow
deriving DecidableEq, Repr

/-- The state of a capture slot (R141). -/
inductive SlotState where
  | free
  | filling
  | frozen
deriving DecidableEq, Repr

/-- A capture slot (R141). -/
structure Slot where
  state : SlotState
  feeder : Option (Fin 4)
  kind : Option TriggerKind
  subject : Option Nat
  time : Option Time
  preRecords : Nat
  postTarget : Nat
  records : List CaptureRecord
  further : Nat
deriving DecidableEq, Repr

/-- A FREE slot (R141). -/
def Slot.empty : Slot := ⟨.free, none, none, none, none, 0, 0, [], 0⟩

/-! ## Proofs (R175) -/

/-- The proof state (R175). -/
inductive ProofState where
  | none
  | zonePending
  | pulseRunning
  | completionWaiting
deriving DecidableEq, Repr

/-- The kind of the proof in flight (R175). -/
inductive ProofKind where
  | proveZone
  | proveLine
deriving DecidableEq, Repr

/-- The proof record (R175). -/
structure Proof where
  state : ProofState
  kind : Option ProofKind
  target : Option Nat
  tag : Option Byte
  forced : Indications
  pulseDeadline : Option Time
  takenOver : Bool
  held : Option ReplyEntry
deriving DecidableEq, Repr

/-- No proof in flight: every field none or clear (R175). -/
def Proof.idle : Proof := ⟨.none, none, none, none, .none, none, false, none⟩

/-- The engine state (R162). -/
inductive EngineState where
  | unconfigured
  | running
deriving DecidableEq, Repr

end Sys2Proof.Machine
end

