-- ==== Sys2Proof/Machine/Flags.lean ====
section
/-!
DEFINITION. The codes and masks payloads carry (R121): one function for each row of the table of codes,
the frame kinds, the command codes and the reply statuses.
-/

namespace Sys2Proof.Machine

/-! ## Frame kinds (R121) -/

def kindCycle : Byte := 0x10
def kindAlert : Byte := 0x11
def kindIdent : Byte := 0x12
def kindManage : Byte := 0x40
def kindReply : Byte := 0x41
def kindVerdict : Byte := 0x42

/-- The exact payload size of a sensor frame kind, none for every other kind (R121, R125). -/
def exactSize (kind : Byte) : Option Nat :=
  if kind = kindCycle then some 19
  else if kind = kindAlert then some 2
  else if kind = kindIdent then some 3
  else none

/-! ## Command codes (R121) -/

def codeIdentify : Byte := 0x01
def codeReadStatus : Byte := 0x02
def codeReadNode : Byte := 0x03
def codeReadZone : Byte := 0x04
def codeReadHealth : Byte := 0x05
def codeReadCounters : Byte := 0x06
def codeClearCounters : Byte := 0x07
def codeClearHealthNode : Byte := 0x08
def codeLoadHeader : Byte := 0x10
def codeLoadNode : Byte := 0x11
def codeLoadZoneProfile : Byte := 0x12
def codeLoadChannelProfile : Byte := 0x13
def codeClearStaged : Byte := 0x14
def codeReadTable : Byte := 0x15
def codeActivate : Byte := 0x16
def codeSetMode : Byte := 0x20
def codeReleaseZone : Byte := 0x21
def codeClearLockout : Byte := 0x22
def codeBarNode : Byte := 0x23
def codeAdmitNode : Byte := 0x24
def codeCaptureNow : Byte := 0x30
def codeReadCapture : Byte := 0x31
def codeFreeCapture : Byte := 0x32
def codeProveZone : Byte := 0x38
def codeProveLine : Byte := 0x39
def codeCancelProof : Byte := 0x3A
def codeRestartEngine : Byte := 0x3F

/-- The codes the command table lists as commands; 0x00 names the STARTED notice and is none (R166). -/
def commandCodes : List Byte :=
  [codeIdentify, codeReadStatus, codeReadNode, codeReadZone, codeReadHealth, codeReadCounters,
   codeClearCounters, codeClearHealthNode, codeLoadHeader, codeLoadNode, codeLoadZoneProfile,
   codeLoadChannelProfile, codeClearStaged, codeReadTable, codeActivate, codeSetMode, codeReleaseZone,
   codeClearLockout, codeBarNode, codeAdmitNode, codeCaptureNow, codeReadCapture, codeFreeCapture,
   codeProveZone, codeProveLine, codeCancelProof, codeRestartEngine]

/-! ## Codes of fields (R121) -/

def Status.code : Status → Byte
  | .done => 0
  | .accepted => 1
  | .busy => 2
  | .badCommand => 3
  | .badParam => 4
  | .wrongState => 5
  | .badTable => 6
  | .refusedTripped => 7
  | .notConfigured => 8
  | .takenOver => 9
  | .abandoned => 10
  | .cancelled => 11

def VerdictKind.code : VerdictKind → Byte
  | .advisory => 1
  | .wouldTrip => 2
  | .trip => 3
  | .lockout => 4
  | .degraded => 5
  | .restored => 6
  | .absorbed => 7
  | .cleared => 8

/-- The bit of a kind in the history mask: bit (code - 1) (R121). -/
def VerdictKind.bit : VerdictKind → BitVec 8
  | .advisory => 0x01
  | .wouldTrip => 0x02
  | .trip => 0x04
  | .lockout => 0x08
  | .degraded => 0x10
  | .restored => 0x20
  | .absorbed => 0x40
  | .cleared => 0x80

def ZoneState.code : ZoneState → Byte
  | .normal => 0
  | .suspect => 1
  | .tripped => 2
  | .lockout => 3
  | .absorbed => 4
  | .degraded => 5

/-- Faulted phase: none 0, A 1, B 2, C 3. -/
def faultedCode : Option Phase → Byte
  | none => 0
  | some .a => 1
  | some .b => 2
  | some .c => 3

/-- Indication mask: OPEN bit 0, LEAK bit 1, ARC bit 2, MOTION bit 3, LOST bit 4. -/
def Indications.mask (x : Indications) : Byte :=
  (if x.open_ then 1 else 0) ||| (if x.leak then 2 else 0) ||| (if x.arc then 4 else 0)
    ||| (if x.motion then 8 else 0) ||| (if x.lost then 16 else 0)

/-- The indications a mask names. -/
def Indications.ofMask (b : Byte) : Indications :=
  ⟨b.getLsbD 0, b.getLsbD 1, b.getLsbD 2, b.getLsbD 3, b.getLsbD 4⟩

/-- The indications of two sets together. -/
def Indications.union (x y : Indications) : Indications :=
  ⟨x.open_ || y.open_, x.leak || y.leak, x.arc || y.arc, x.motion || y.motion, x.lost || y.lost⟩

def reasonCode : Option Reason → Byte
  | none => 0
  | some .evidence => 1
  | some .blind => 2
  | some .headLost => 3
  | some .boundaryOverflow => 4

def NodeState.code : NodeState → Byte
  | .expected => 0
  | .warming => 1
  | .live => 2
  | .silent => 3
  | .barred => 4

def barReasonCode : Option BarReason → Byte
  | none => 0
  | some .mismatch => 1
  | some .health => 2
  | some .command => 3

def Evaluability.code : Evaluability → Byte
  | .evaluable => 0
  | .absorbed => 1
  | .headLost => 2
  | .boundaryOverflow => 3

def EngineState.code : EngineState → Byte
  | .unconfigured => 0
  | .running => 1

def Presence.code : Presence → Byte
  | .absent => 0
  | .present => 1

def Mode.code : Mode → Byte
  | .standard => 0
  | .heightened => 1
  | .inhibited => 2

/-- The mode a code names. -/
def modeOf (b : Byte) : Option Mode :=
  if b = 0 then some .standard else if b = 1 then some .heightened else if b = 2 then some .inhibited else none

def LinePolicy.code : LinePolicy → Byte
  | .unused => 0
  | .direct => 1
  | .backup => 2

/-- The policy a code names. -/
def policyOf (b : Byte) : Option LinePolicy :=
  if b = 0 then some .unused else if b = 1 then some .direct else if b = 2 then some .backup else none

def SlotState.code : SlotState → Byte
  | .free => 0
  | .filling => 1
  | .frozen => 2

def triggerCode : Option TriggerKind → Byte
  | none => 0
  | some .suspect => 1
  | some .trip => 2
  | some .motion => 3
  | some .captureNow => 4

def ProofState.code : ProofState → Byte
  | .none => 0
  | .zonePending => 1
  | .pulseRunning => 2
  | .completionWaiting => 3

def Role.code : Role → Byte
  | .head => 0
  | .node => 1
  | .twin => 2

def LossAction.code : LossAction → Byte
  | .report => 0
  | .safeTrip => 1

/-- A node index, zone or profile field that may be none: one byte, none as 0xFF. -/
def indexByte : Option Nat → Byte
  | none => 0xFF
  | some n => byteOf n

/-- A one-byte field that may be none: two bytes, none as 0xFFFF. -/
def wideByte : Option Byte → List Byte
  | none => [0xFF, 0xFF]
  | some b => [0, b]

end Sys2Proof.Machine
end

