-- ==== Sys2Proof/Machine/Operands.lean ====
section
/-!
DEFINITION. The operands of the stream: the CRC (R122), frames to and from bytes (R121), the hunt for a
sync pair (R123), and the payloads of CYCLE, ALERT and IDENT frames (R121).
-/

namespace Sys2Proof.Machine

/-! ## CRC-16 (R122) -/

/-- One bit of the CRC: shift left, and divide by x^16 + x^12 + x^5 + 1 when a 1 leaves. -/
def crcBit (crc : BitVec 16) : BitVec 16 :=
  if crc.msb then (crc <<< 1) ^^^ 0x1021 else crc <<< 1

/-- One byte into the CRC, most significant bit first. -/
def crcByte (crc : BitVec 16) (b : Byte) : BitVec 16 :=
  crcBit (crcBit (crcBit (crcBit (crcBit (crcBit (crcBit (crcBit (crc ^^^ (b.setWidth 16 <<< 8)))))))))

/-- The CRC over bytes in the order sent, preset to 0xFFFF and not inverted. -/
def crc16 (bytes : List Byte) : BitVec 16 := bytes.foldl crcByte 0xFFFF

/-! ## Frames (R121) -/

/-- The bytes the CRC is computed over: kind, address, sequence, length and payload. -/
def Frame.body (f : Frame) : List Byte :=
  f.kind :: f.address :: f.sequence :: byteOf f.payload.length :: f.payload

/-- The frame as transmitted: sync pair, body, CRC high byte first. -/
def Frame.bytes (f : Frame) : List Byte :=
  Config.sync0 :: Config.sync1 :: (f.body ++ [f.crc.extractLsb' 8 8, f.crc.extractLsb' 0 8])

/-- The frame the engine originates, with its computed CRC (R131). -/
def buildFrame (kind address sequence : Byte) (payload : List Byte) : Frame :=
  let f : Frame := ⟨kind, address, sequence, payload, 0⟩
  { f with crc := crc16 f.body }

/-- The frame in the bytes collected after a sync pair, when they are a whole frame: four header bytes with
a length of 0..200, that many payload bytes, and two CRC bytes (R124). -/
def parseFrame : List Byte → Option Frame
  | kind :: address :: sequence :: len :: rest =>
    if len.toNat ≤ Config.maxPayload ∧ rest.length = len.toNat + 2 then
      some ⟨kind, address, sequence, rest.take len.toNat,
        (byteAt rest len.toNat) ++ (byteAt rest (len.toNat + 1))⟩
    else none
  | _ => none

/-- The four bytes are a header whose length byte exceeds 200 (R124). -/
def oversizeHeader : List Byte → Bool
  | [_, _, _, len] => decide (Config.maxPayload < len.toNat)
  | _ => false

/-! ## Hunting (R123) -/

/-- What a stretch of bytes does to a hunting receiver. -/
inductive HuntEnd where
  /-- no pair was found: the candidate held and whether the episode has skipped bytes -/
  | still (candidate skipped : Bool)
  /-- the pair was found: whether the episode skipped bytes, and the bytes after the pair -/
  | found (skipped : Bool) (rest : List Byte)
deriving DecidableEq, Repr

/-- The bytes examined one at a time by the table of R123, up to the sync pair. -/
def hunt : Bool → Bool → List Byte → HuntEnd
  | candidate, skipped, [] => .still candidate skipped
  | false, skipped, b :: bytes =>
    if b = Config.sync0 then hunt true skipped bytes else hunt false true bytes
  | true, skipped, b :: bytes =>
    if b = Config.sync1 then .found skipped bytes
    else if b = Config.sync0 then hunt true true bytes
    else hunt false true bytes

/-! ## Sensor payloads (R121) -/

/-- The bit of a phase in a saturation flag or a phase mask: A bit 0, B bit 1, C bit 2. -/
def phaseBit (b : Byte) : Phase → Bool
  | .a => b.getLsbD 0
  | .b => b.getLsbD 1
  | .c => b.getLsbD 2

/-- At least one of the three phase bits is set. -/
def anyPhase (b : Byte) : Bool := b.getLsbD 0 || b.getLsbD 1 || b.getLsbD 2

/-- How many of the three phase bits are set. -/
def countPhases (b : Byte) : Nat :=
  (b.getLsbD 0).toNat + (b.getLsbD 1).toNat + (b.getLsbD 2).toNat

/-- The offset of a phase's report in a CYCLE payload. -/
def cycleOffset : Phase → Nat
  | .a => 1
  | .b => 7
  | .c => 13

/-- The reports of a CYCLE payload: I, V, H for A, B and C. -/
def cycleValues (payload : List Byte) : PerPhase Measure :=
  .of fun p => ⟨u16At payload (cycleOffset p), u16At payload (cycleOffset p + 2), u16At payload (cycleOffset p + 4)⟩

/-- The flags byte of a CYCLE payload: bits 0..2 saturated A, B, C; bit 3 voltage absent. -/
def cycleFlags (payload : List Byte) : Byte := byteAt payload 0

/-- The voltage-absent flag of a CYCLE flags byte. -/
def voltageAbsent (flags : Byte) : Bool := flags.getLsbD 3

end Sys2Proof.Machine
end

