-- ==== Sys2Proof/Machine/State.lean ====
section
/-!
DEFINITION. The state of the engine: every piece of state the spec gives it, as plain data; the reasons
a step can stop; and the state after a hard reset.
-/

namespace Sys2Proof.Machine

/-- The whole state of the engine. -/
structure State where
  /-- engine time (R1) -/
  now : Time
  /-- the strap value sampled at hard reset (R135) -/
  strap : BitVec 2
  /-- UNCONFIGURED or RUNNING (R162) -/
  engine : EngineState
  /-- the copy in use (R152) -/
  active : Tables
  /-- the copy being loaded (R152) -/
  staged : Tables
  /-- runtime node records with their channels, by node index (R19, R42) -/
  nodes : List (Option NodeRun)
  /-- zone records, by the index of the defining node (R5, R65, R83) -/
  zones : List (Option Zone)
  /-- feeder records (R60) -/
  feeders : Four Feeder
  /-- the verdict queue, oldest first (R106) -/
  verdicts : List VerdictEntry
  /-- asserted trip lines (R114) -/
  lines : Four Bool
  /-- controller presence (R132) -/
  presence : Presence
  /-- controller silence deadline (R132) -/
  presenceDeadline : Option Time
  /-- the sensor port receiver (R123) -/
  rxSensor : Receiver
  /-- the controller port receiver (R123) -/
  rxController : Receiver
  /-- accepted controller-port frames whose presence update is due, oldest first (R128), each as the controller silence
  limit that was in force when it was accepted (R132, R138, R161; log entries 4 and 21) -/
  awaitingPresence : List Nat
  /-- accepted controller-port frames whose routing is due, oldest first (R128) -/
  awaitingRouting : List Frame
  /-- the forward FIFO, oldest first (R127) -/
  forwardFifo : List Frame
  /-- the sensor-port transmit queue, oldest first (R129) -/
  sensorQueue : List Frame
  /-- the reply queue, oldest first (R167) -/
  replies : List ReplyEntry
  /-- the bytes of the frame in transmission on the controller port (R130) -/
  controllerTx : Option (List Byte)
  /-- the bytes of the frame in transmission on the sensor port (R129) -/
  sensorTx : Option (List Byte)
  /-- the engine's sequence counter (R131) -/
  sequence : Byte
  /-- the fourteen counters (R134) -/
  counters : Counters
  /-- history rings, oldest record first (R140) -/
  rings : Four (List CaptureRecord)
  /-- capture slots (R141) -/
  slots : Four Slot
  /-- missed-trigger count (R143) -/
  missed : Nat
  /-- the proof record (R175) -/
  proof : Proof
  /-- the commands that wait, first in first out -/
  pending : List Instr
deriving DecidableEq, Repr

/-- The reasons a step faults. There is none: the part has no exception, and every command has an effect
or is answered, discarded and counted, so a fault can never be raised (safe). -/
inductive Fault : Type where
deriving DecidableEq, Repr

/-- The reasons a step is refused. -/
inductive Refusal where
  /-- Raised by an arm of exec whose command has no meaning yet; no arm raises it (safe). -/
  | notModelled (mnemonic : String)
deriving DecidableEq, Repr

/-- The STARTED notice (R168): code 0x00, tag 0, DONE, and the cause, 1 HARD or 2 RESTART. -/
def startedNotice (cause : Byte) : ReplyEntry := ⟨0, 0, .done, [cause]⟩

/-- The machine right after a hard reset (R136, R111, R118, R133, R150, R152, R162, R175), with the STARTED
notice of cause HARD in the reply queue (R168). The strap pins read 0 here (DESIGN CHOICE, log entry 5). -/
def State.reset : State where
  now := 0
  strap := 0
  engine := .unconfigured
  active := .empty
  staged := .empty
  nodes := List.replicate Config.nodeCount none
  zones := List.replicate Config.nodeCount none
  feeders := .all .fresh
  verdicts := []
  lines := .all false
  presence := .absent
  presenceDeadline := none
  rxSensor := .hunting false false
  rxController := .hunting false false
  awaitingPresence := []
  awaitingRouting := []
  forwardFifo := []
  sensorQueue := []
  replies := [startedNotice 1]
  controllerTx := none
  sensorTx := none
  sequence := 0
  counters := .zero
  rings := .all []
  slots := .all .empty
  missed := 0
  proof := .idle
  pending := []

end Sys2Proof.Machine
end

