-- ==== Sys2Proof/Machine/TableCodec.lean ====
section
/-!
DEFINITION. The table records as bytes (section 9.2): the ranges LOAD checks (R153, R154), a record from the
bytes of a LOAD command, and the bytes READ TABLE returns (R156).
-/

namespace Sys2Proof.Machine

/-! ## Ranges (section 9.2) -/

/-- `x` lies in the range `lo` to `hi`. -/
def within (lo hi x : Nat) : Bool := decide (lo ≤ x ∧ x ≤ hi)

/-- An evaluation period: 10..500 ms, a multiple of 10. -/
def periodInRange (x : Nat) : Bool := within 10 500 x && decide (x % 10 = 0)

def Header.inRange (h : Header) : Bool :=
  h.periods.toList.all periodInRange && within 100 10000 h.silenceLimit && within 0 128 h.preCount
    && within 1 384 h.postCount

/-- Every field of a node record in its range for the record's role (R154). -/
def NodeRec.inRange (r : NodeRec) : Bool :=
  within 1 239 r.address.toNat && r.parent.all (· < Config.nodeCount) && r.twin.all (· < Config.nodeCount)
    && (match r.role with
      | .head => r.parent.isNone && r.zonePart.isSome
      | .node => r.zonePart.isSome
      | .twin => r.parent.isNone && r.twin.isNone && r.zonePart.isNone)

def Weights.inRange (w : Weights) : Bool :=
  within 0 15 w.open_ && within 0 15 w.leak && within 0 15 w.arc && within 0 15 w.motion && within 0 15 w.lost

def ZoneProfile.inRange (p : ZoneProfile) : Bool :=
  within 1 65535 p.vLive && within 0 1000 p.rhoOpen && within 1 1000 p.dEnd && within 1 1000 p.dLost
    && within 1 32767 p.leakThreshold && within 4 12 p.kb && p.weights.inRange && within 0 255 p.decay
    && within 1 255 p.tSuspect && within 1 255 p.tConfirm && within 100 60000 p.stepTime
    && within 1 3 p.lockoutLimit && within 0 86400000 p.tripMemory && within 0 60000 p.degradeGrace
    && within 20 60000 p.lossWindow

def Health.inRange (t : Health) : Bool :=
  within 0 65535 t.gaps && within 0 65535 t.stales && within 0 65535 t.silences && within 0 65535 t.saturations

def ChannelProfile.inRange (p : ChannelProfile) : Bool :=
  within 1 4 p.kf && within 4 10 p.ks && within 0 65535 p.iMin && within 2 8 p.kl && within 1 65535 p.hCap
    && within 1 65535 p.sOn && within 0 65534 p.sOff && within 1 64 p.arcReleaseCount
    && within 20 2000 p.silenceLimit && within 16 1024 p.warmUpCount && within 100 10000 p.motionHold
    && p.thresholds.inRange

/-- Every record of a copy in range, in lists of their full length (R152, R153). -/
def Tables.inRange (t : Tables) : Bool :=
  t.header.inRange && decide (t.nodes.length = Config.nodeCount) && t.nodes.all (·.all NodeRec.inRange)
    && decide (t.zoneProfiles.length = Config.zoneProfileCount) && t.zoneProfiles.all ZoneProfile.inRange
    && decide (t.channelProfiles.length = Config.channelProfileCount)
    && t.channelProfiles.all ChannelProfile.inRange

/-! ## Fields from bytes -/

/-- A flag byte: 0 or 1. -/
def flagOf (b : Byte) : Option Bool := if b = 0 then some false else if b = 1 then some true else none

/-- A node index, or 0xFF for none. -/
def indexOf (b : Byte) : Option (Option Nat) :=
  if b = 0xFF then some none else if b.toNat < Config.nodeCount then some (some b.toNat) else none

/-- A number below `n`. -/
def finOf (n : Nat) (b : Byte) : Option (Fin n) := if h : b.toNat < n then some ⟨b.toNat, h⟩ else none

/-- A role code. -/
def roleOf (b : Byte) : Option Role :=
  if b = 0 then some .head else if b = 1 then some .node else if b = 2 then some .twin else none

/-- A loss action code. -/
def lossActionOf (b : Byte) : Option LossAction :=
  if b = 0 then some .report else if b = 1 then some .safeTrip else none

/-! ## Records from bytes (R153, R154) -/

/-- A header record of 18 bytes, every field in range. -/
def parseHeader (bytes : List Byte) : Option Header := do
  let p0 ← policyOf (byteAt bytes 10)
  let p1 ← policyOf (byteAt bytes 11)
  let p2 ← policyOf (byteAt bytes 12)
  let p3 ← policyOf (byteAt bytes 13)
  let h : Header :=
    { periods := ⟨u16At bytes 0, u16At bytes 2, u16At bytes 4, u16At bytes 6⟩
      silenceLimit := u16At bytes 8
      policies := ⟨p0, p1, p2, p3⟩
      triggerMask := (byteAt bytes 14).setWidth 3
      preCount := (byteAt bytes 15).toNat
      postCount := u16At bytes 16 }
  if bytes.length = 18 ∧ (byteAt bytes 14).toNat < 8 ∧ h.inRange then some h else none

/-- The zone part of a HEAD or NODE record; a TWIN carries 0xFF, 0xFF and 0, and has none. -/
def parseZonePart (role : Role) (s h m : Byte) : Option (Option ZonePart) :=
  match role with
  | .twin => if s = 0xFF ∧ h = 0xFF ∧ m = 0 then some none else none
  | _ => do
    let s' ← finOf 16 s
    let h' ← finOf 16 h
    if m.toNat < 16 then some (some ⟨s', h', m.setWidth 4⟩) else none

/-- A present node record: the twelve bytes after the present byte, offsets as in section 9.2. -/
def parsePresentNode (bytes : List Byte) : Option NodeRec := do
  let feeder ← finOf 4 (byteAt bytes 2)
  let role ← roleOf (byteAt bytes 3)
  let parent ← indexOf (byteAt bytes 4)
  let twin ← indexOf (byteAt bytes 5)
  let sensing ← flagOf (byteAt bytes 6)
  let profile ← finOf 8 (byteAt bytes 7)
  let autoReturn ← flagOf (byteAt bytes 8)
  let autoBar ← flagOf (byteAt bytes 9)
  let part ← parseZonePart role (byteAt bytes 10) (byteAt bytes 11) (byteAt bytes 12)
  let r : NodeRec := ⟨byteAt bytes 1, feeder, role, parent, twin, sensing, profile, autoReturn, autoBar, part⟩
  if r.inRange then some r else none

/-- A node record of 13 bytes, absent or present; of an absent one only the present byte is examined. -/
def parseNode (bytes : List Byte) : Option (Option NodeRec) :=
  if bytes.length = 13 then
    if byteAt bytes 0 = 0 then some none
    else if byteAt bytes 0 = 1 then (parsePresentNode bytes).map some
    else none
  else none

/-- A zone profile of 31 bytes, every field in range. -/
def parseZoneProfile (bytes : List Byte) : Option ZoneProfile := do
  let action ← lossActionOf (byteAt bytes 26)
  let p : ZoneProfile :=
    { vLive := u16At bytes 0
      rhoOpen := u16At bytes 2
      dEnd := u16At bytes 4
      dLost := u16At bytes 6
      leakThreshold := u16At bytes 8
      kb := (byteAt bytes 10).toNat
      weights := ⟨(byteAt bytes 11).toNat, (byteAt bytes 12).toNat, (byteAt bytes 13).toNat,
        (byteAt bytes 14).toNat, (byteAt bytes 15).toNat⟩
      decay := (byteAt bytes 16).toNat
      tSuspect := (byteAt bytes 17).toNat
      tConfirm := (byteAt bytes 18).toNat
      stepTime := u16At bytes 19
      lockoutLimit := (byteAt bytes 21).toNat
      tripMemory := u32At bytes 22
      lossAction := action
      degradeGrace := u16At bytes 27
      lossWindow := u16At bytes 29 }
  if bytes.length = 31 ∧ p.inRange then some p else none

/-- A channel profile of 26 bytes, every field in range. -/
def parseChannelProfile (bytes : List Byte) : Option ChannelProfile :=
  let p : ChannelProfile :=
    { kf := (byteAt bytes 0).toNat
      ks := (byteAt bytes 1).toNat
      iMin := u16At bytes 2
      kl := (byteAt bytes 4).toNat
      hCap := u16At bytes 5
      sOn := u16At bytes 7
      sOff := u16At bytes 9
      arcReleaseCount := (byteAt bytes 11).toNat
      silenceLimit := u16At bytes 12
      warmUpCount := u16At bytes 14
      motionHold := u16At bytes 16
      thresholds := ⟨u16At bytes 18, u16At bytes 20, u16At bytes 22, u16At bytes 24⟩ }
  if bytes.length = 26 ∧ p.inRange then some p else none

/-! ## Records as bytes (R156) -/

def Header.encode (h : Header) : List Byte :=
  h.periods.toList.flatMap be16 ++ be16 h.silenceLimit ++ h.policies.toList.map LinePolicy.code
    ++ [h.triggerMask.setWidth 8, byteOf h.preCount] ++ be16 h.postCount

/-- The three bytes of a zone part: 0xFF, 0xFF and 0 where there is none. -/
def encodeZonePart : Option ZonePart → List Byte
  | none => [0xFF, 0xFF, 0]
  | some z => [byteOf z.standardProfile, byteOf z.heightenedProfile, z.tripMask.setWidth 8]

def NodeRec.encode (r : NodeRec) : List Byte :=
  [1, r.address, byteOf r.feeder, r.role.code, indexByte r.parent, indexByte r.twin, flagByte r.voltageSensing,
   byteOf r.channelProfile, flagByte r.autoReturn, flagByte r.autoBar] ++ encodeZonePart r.zonePart

/-- An absent record reads as present 0 followed by twelve bytes of 0xFF. -/
def encodeNode : Option NodeRec → List Byte
  | none => 0 :: List.replicate 12 0xFF
  | some r => r.encode

def ZoneProfile.encode (p : ZoneProfile) : List Byte :=
  be16 p.vLive ++ be16 p.rhoOpen ++ be16 p.dEnd ++ be16 p.dLost ++ be16 p.leakThreshold
    ++ [byteOf p.kb, byteOf p.weights.open_, byteOf p.weights.leak, byteOf p.weights.arc,
        byteOf p.weights.motion, byteOf p.weights.lost, byteOf p.decay, byteOf p.tSuspect, byteOf p.tConfirm]
    ++ be16 p.stepTime ++ [byteOf p.lockoutLimit] ++ be32 p.tripMemory ++ [p.lossAction.code]
    ++ be16 p.degradeGrace ++ be16 p.lossWindow

def ChannelProfile.encode (p : ChannelProfile) : List Byte :=
  [byteOf p.kf, byteOf p.ks] ++ be16 p.iMin ++ [byteOf p.kl] ++ be16 p.hCap ++ be16 p.sOn ++ be16 p.sOff
    ++ [byteOf p.arcReleaseCount] ++ be16 p.silenceLimit ++ be16 p.warmUpCount ++ be16 p.motionHold
    ++ be16 p.thresholds.gaps ++ be16 p.thresholds.stales ++ be16 p.thresholds.silences
    ++ be16 p.thresholds.saturations

end Sys2Proof.Machine
end

