-- ==== Sys2Proof/Machine/Tables.lean ====
section
/-!
DEFINITION. Reading the tables: records and profiles by number, the feeder trees (R3), the validation of
ACTIVATE (R157), and identity across the swap (R158).
-/

namespace Sys2Proof.Machine

/-! ## Records by number -/

/-- The present node record at an index. -/
def Tables.node? (t : Tables) (i : Nat) : Option NodeRec := (t.nodes[i]?).join

/-- The node indices of a copy, ascending. -/
def Tables.indices (t : Tables) : List Nat := List.range t.nodes.length

def Tables.zoneProfile (t : Tables) (n : Fin 16) : ZoneProfile := t.zoneProfiles.getD n .default

def Tables.channelProfile (t : Tables) (n : Fin 8) : ChannelProfile := t.channelProfiles.getD n .default

/-- The channel profile a node record names (R43). -/
def Tables.profileOf (t : Tables) (r : NodeRec) : ChannelProfile := t.channelProfile r.channelProfile

/-- The index of the present record that carries an address (R20). -/
def Tables.find? (t : Tables) (address : Byte) : Option Nat :=
  t.indices.find? fun i => (t.node? i).any (·.address = address)

/-- A position is a HEAD or NODE (R3). -/
def NodeRec.isPosition (r : NodeRec) : Bool := decide (r.role ≠ .twin)

/-- The position record at an index. -/
def Tables.position? (t : Tables) (i : Nat) : Option NodeRec := (t.node? i).filter NodeRec.isPosition

/-! ## The feeder trees (R3, R4) -/

/-- The record is a NODE whose parent index is `p`. -/
def isChildOf (p : Nat) (r : NodeRec) : Bool := decide (r.role = .node ∧ r.parent = some p)

/-- The children of a position, ascending: the NODE records whose parent index is that position. -/
def Tables.children (t : Tables) (p : Nat) : List Nat := t.indices.filter fun i => (t.node? i).any (isChildOf p)

/-- The twin of a position, or none. -/
def Tables.twinOf (t : Tables) (p : Nat) : Option Nat := (t.position? p).bind (·.twin)

/-- The zones of a feeder, ascending: its HEAD and NODE records (R4). -/
def Tables.zonesOf (t : Tables) (f : Fin 4) : List Nat :=
  t.indices.filter fun i => (t.position? i).any fun r => decide (r.feeder = f)

/-- A feeder is used when a HEAD record names it (R3). -/
def Tables.feederUsed (t : Tables) (f : Fin 4) : Bool :=
  t.indices.any fun i => (t.node? i).any fun r => decide (r.role = .head ∧ r.feeder = f)

/-- The used feeders, ascending. -/
def Tables.usedFeeders (t : Tables) : List (Fin 4) := four.filter t.feederUsed

/-- The depth of a position: 1 for the HEAD and one more than the parent's for a NODE; none when the chain of
parents does not reach a HEAD within `fuel` records. -/
def Tables.depth (t : Tables) : Nat → Nat → Option Nat
  | 0, _ => none
  | fuel + 1, i =>
    match t.node? i with
    | none => none
    | some r =>
      match r.role with
      | .head => some 1
      | .twin => none
      | .node => r.parent.bind fun p => (t.depth fuel p).map (· + 1)

/-! ## Validation (R157) -/

/-- The index of the first record, in ascending order, that fails a check. -/
def Tables.firstNode (t : Tables) (bad : Nat → NodeRec → Bool) : Option Nat :=
  t.indices.find? fun i => (t.node? i).any (bad i)

/-- 1 DUP_ADDRESS: the address of a present record with a lower index. -/
def Tables.badAddress (t : Tables) (i : Nat) (r : NodeRec) : Bool :=
  (List.range i).any fun j => (t.node? j).any (·.address = r.address)

/-- 3 TWO_HEADS: a HEAD of a feeder that a HEAD with a lower index names. -/
def Tables.badHead (t : Tables) (i : Nat) (r : NodeRec) : Bool :=
  decide (r.role = .head) && (List.range i).any fun j =>
    (t.node? j).any fun q => decide (q.role = .head ∧ q.feeder = r.feeder)

/-- 4 BAD_PARENT: a NODE whose parent is none, absent or a TWIN. -/
def Tables.badParent (t : Tables) (_ : Nat) (r : NodeRec) : Bool :=
  decide (r.role = .node) && (r.parent.bind t.position?).isNone

/-- A record an index names, on another feeder than `f`. -/
def Tables.onOtherFeeder (t : Tables) (f : Fin 4) (i : Option Nat) : Bool :=
  (i.bind t.node?).any fun q => decide (q.feeder ≠ f)

/-- 5 CROSS_FEEDER: a NODE's parent, or a present twin of a HEAD or NODE, on another feeder. Any present record that
the twin index names counts as a present twin here, a HEAD or NODE too (DESIGN CHOICE, log entry 20). -/
def Tables.badFeeder (t : Tables) (_ : Nat) (r : NodeRec) : Bool :=
  (decide (r.role = .node) && t.onOtherFeeder r.feeder r.parent) || (r.isPosition && t.onOtherFeeder r.feeder r.twin)

/-- 6 CYCLE: a NODE whose chain of parents never reaches a HEAD. -/
def Tables.badCycle (t : Tables) (i : Nat) (r : NodeRec) : Bool :=
  decide (r.role = .node) && (t.depth t.nodes.length i).isNone

/-- 7 TOO_DEEP: a NODE at depth above 16. -/
def Tables.badDepth (t : Tables) (i : Nat) (r : NodeRec) : Bool :=
  decide (r.role = .node) && (t.depth t.nodes.length i).any (Config.maxDepth < ·)

/-- 8 TOO_MANY_CHILDREN: a position named as parent by more than 4 NODEs. -/
def Tables.badChildren (t : Tables) (i : Nat) (r : NodeRec) : Bool :=
  r.isPosition && decide (Config.maxChildren < (t.children i).length)

/-- 9 BAD_TWIN: a position's twin index names an absent record, or one that is not a TWIN. -/
def Tables.badTwin (t : Tables) (_ : Nat) (r : NodeRec) : Bool :=
  r.isPosition && r.twin.any fun q => !(t.node? q).any fun x => decide (x.role = .twin)

/-- How many positions name an index as twin. -/
def Tables.twinUses (t : Tables) (i : Nat) : Nat :=
  (t.indices.filter fun p => t.twinOf p = some i).length

/-- 10 TWIN_SHARED: a TWIN named as twin by two or more records, or by none. -/
def Tables.badTwinUse (t : Tables) (i : Nat) (r : NodeRec) : Bool :=
  decide (r.role = .twin) && decide (t.twinUses i ≠ 1)

/-- 2 NO_HEAD: no present record is a HEAD; reported with index 0xFF. -/
def Tables.noHead (t : Tables) : Option Nat :=
  if t.indices.any fun i => (t.node? i).any fun r => decide (r.role = .head) then none else some 0xFF

/-- A zone profile's orders: T_suspect at or below T_confirm. -/
def ZoneProfile.ordered (p : ZoneProfile) : Bool := decide (p.tSuspect ≤ p.tConfirm)

/-- A channel profile's orders: kf below ks, and S_off below S_on. -/
def ChannelProfile.ordered (p : ChannelProfile) : Bool := decide (p.kf < p.ks ∧ p.sOff < p.sOn)

/-- 11 PROFILE_ORDER: the first zone profile out of order as 48 plus its number, else the first channel profile
as 64 plus its number (DEDUCED, log entry 8: zone profiles before channel profiles). -/
def Tables.profileOrder (t : Tables) : Option Nat :=
  match t.zoneProfiles.findIdx? (fun p => !p.ordered) with
  | some n => some (48 + n)
  | none => (t.channelProfiles.findIdx? fun p => !p.ordered).map (64 + ·)

/-- The checks of R157 in order, each with its reason code. -/
def Tables.checks (t : Tables) : List (Option Nat × Byte) :=
  [(t.firstNode t.badAddress, 1), (t.noHead, 2), (t.firstNode t.badHead, 3), (t.firstNode t.badParent, 4),
   (t.firstNode t.badFeeder, 5), (t.firstNode t.badCycle, 6), (t.firstNode t.badDepth, 7),
   (t.firstNode t.badChildren, 8), (t.firstNode t.badTwin, 9), (t.firstNode t.badTwinUse, 10),
   (t.profileOrder, 11)]

/-- The first failure of the validation: the index and the reason code to report; none when the copy passes. -/
def Tables.failure (t : Tables) : Option (Nat × Byte) :=
  t.checks.findSome? fun c => c.1.map fun i => (i, c.2)

/-! ## Identity (R158) -/

/-- The index in `old` of the record that record `j` of `new` is kept from: same address, feeder and role. -/
def keptNode (old new : Tables) (j : Nat) : Option Nat :=
  (new.node? j).bind fun r => old.indices.find? fun i =>
    (old.node? i).any fun o => decide (o.address = r.address ∧ o.feeder = r.feeder ∧ o.role = r.role)

/-- The address of the record an index names. -/
def Tables.addressOf (t : Tables) (i : Nat) : Option Byte := (t.node? i).map (·.address)

/-- The address of a position's parent, or none for a HEAD. -/
def Tables.parentAddress (t : Tables) (i : Nat) : Option Byte :=
  ((t.node? i).bind (·.parent)).bind t.addressOf

/-- The address of a position's twin, or none. -/
def Tables.twinAddress (t : Tables) (i : Nat) : Option Byte := (t.twinOf i).bind t.addressOf

/-- The addresses of a position's children. -/
def Tables.childAddresses (t : Tables) (i : Nat) : List Byte := (t.children i).filterMap t.addressOf

/-- The same set, given as lists. -/
def sameSet {α : Type} [DecidableEq α] (xs ys : List α) : Bool :=
  xs.all (fun x => decide (x ∈ ys)) && ys.all fun y => decide (y ∈ xs)

/-- The index in `old` of the zone that zone `j` of `new` is kept from: a kept HEAD or NODE with the same parent,
set of children and twin, compared by address. -/
def keptZone (old new : Tables) (j : Nat) : Option Nat :=
  (new.position? j).bind fun _ => (keptNode old new j).filter fun i =>
    decide (old.parentAddress i = new.parentAddress j ∧ old.twinAddress i = new.twinAddress j)
      && sameSet (old.childAddresses i) (new.childAddresses j)

/-- The index in `new` of the zone kept from zone `i` of `old`. -/
def keptTo (old new : Tables) (i : Nat) : Option Nat :=
  new.indices.find? fun j => decide (keptZone old new j = some i)

end Sys2Proof.Machine
end

