-- ==== Sys2Proof/Machine/Ops.lean ====
section
/-!
DEFINITION. The named operations over the state: reading and replacing one record, counters, queues, the tick of
engine time, and the reply discipline of the management unit (R165, R167, R179).
-/

namespace Sys2Proof.Machine

/-! ## Records of the state -/

/-- The runtime record of a node, if it exists (R19). -/
def State.node? (s : State) (i : Nat) : Option NodeRun := (s.nodes[i]?).join

/-- Replace the runtime record of a node. -/
def State.setNode (s : State) (i : Nat) (n : NodeRun) : State := { s with nodes := s.nodes.set i (some n) }

/-- The records of a zone, if it exists (R4). -/
def State.zone? (s : State) (z : Nat) : Option Zone := (s.zones[z]?).join

/-- Change the records of a zone, if it exists. -/
def State.modZone (s : State) (z : Nat) (g : Zone → Zone) : State :=
  { s with zones := s.zones.modify z (Option.map g) }

/-- Change the state record of a zone, if it exists. -/
def State.modRun (s : State) (z : Nat) (g : ZoneRecord → ZoneRecord) : State :=
  s.modZone z fun x => { x with run := g x.run }

/-- The node is LIVE: only then may zones use its measurements (R6). -/
def State.isLive (s : State) (i : Nat) : Bool := (s.node? i).any fun n => decide (n.state = .live)

/-- The receiver of a port. -/
def State.rx (s : State) : Port → Receiver
  | .sensor => s.rxSensor
  | .controller => s.rxController

def State.setRx (s : State) (p : Port) (r : Receiver) : State :=
  match p with
  | .sensor => { s with rxSensor := r }
  | .controller => { s with rxController := r }

/-! ## Counters (R134) -/

/-- A counter gains 1 and stops at 2^32 - 1. -/
def gain (n : Nat) : Nat := satAdd 4294967295 n 1

def State.modCounters (s : State) (g : Counters → Counters) : State := { s with counters := g s.counters }

/-- Change the counters of one port. -/
def State.modPort (s : State) (p : Port) (g : PortCounters → PortCounters) : State :=
  s.modCounters fun c =>
    match p with
    | .sensor => { c with sensor := g c.sensor }
    | .controller => { c with controller := g c.controller }

def PortCounters.gainAccepted (c : PortCounters) : PortCounters := { c with accepted := gain c.accepted }
def PortCounters.gainSlips (c : PortCounters) : PortCounters := { c with slips := gain c.slips }
def PortCounters.gainLengthErrors (c : PortCounters) : PortCounters := { c with lengthErrors := gain c.lengthErrors }
def PortCounters.gainCrcErrors (c : PortCounters) : PortCounters := { c with crcErrors := gain c.crcErrors }
def PortCounters.gainDrops (c : PortCounters) : PortCounters := { c with drops := gain c.drops }

/-- The counters in the order of R134. -/
def Counters.toList (c : Counters) : List Nat :=
  [c.sensor.accepted, c.sensor.slips, c.sensor.lengthErrors, c.sensor.crcErrors, c.sensor.drops,
   c.controller.accepted, c.controller.slips, c.controller.lengthErrors, c.controller.crcErrors,
   c.controller.drops, c.discards, c.unknownSource, c.unidentified, c.unknownAlerts]

/-! ## Engine address and time -/

/-- The engine's address: 248 plus the strap value (R135). -/
def State.address (s : State) : Byte := 248 + s.strap.setWidth 8

/-- One millisecond of engine time (R1): what a step does when no command waits (DESIGN CHOICE, log entry 2). -/
def State.tick (s : State) : State := { s with now := s.now + 1 }

/-! ## The reply queue and the proof unit's held reply (R165, R167, R179) -/

/-- Append a reply entry at the tail. -/
def State.pushReply (s : State) (r : ReplyEntry) : State := { s with replies := s.replies ++ [r] }

/-- The reply the proof unit holds can join the reply queue: a completion waits and there is room (R167, R179). -/
def State.canFlush (s : State) : Bool :=
  decide (s.proof.state = .completionWaiting ∧ s.replies.length < Config.replyCapacity)

/-- Append the held completion reply where there is room; the proof then ends (R179). -/
def State.flushHeld (s : State) : State :=
  { s with
    replies := if s.canFlush then s.replies ++ s.proof.held.toList else s.replies
    proof := if s.canFlush then .idle else s.proof }

/-- The proof in flight ends with a completion reply, held until it is queued (R179): it carries the proof's
command code and tag. -/
def State.completeProof (s : State) (status : Status) (data : List Byte) : State :=
  { s with
    proof :=
      { s.proof with
        state := .completionWaiting
        pulseDeadline := none
        held := some ⟨if s.proof.kind = some .proveLine then codeProveLine else codeProveZone,
          s.proof.tag.getD 0, status, data⟩ } }

/-- A pending zone proof of a zone that leaves NORMAL or SUSPECT, or is dropped, is abandoned (R100, R177). -/
def State.abandonProof (s : State) (z : Nat) : State :=
  if s.proof.state = .zonePending ∧ s.proof.target = some z then s.completeProof .abandoned [] else s

/-- What a management command answers: the state after its effect, its status and data, and the entries that
follow its own REPLY within the event. -/
structure Answer where
  state : State
  status : Status
  data : List Byte := []
  more : List ReplyEntry := []

/-- A refusal changes no state and carries no data (R166). -/
def refuse (s : State) (status : Status) : Answer := ⟨s, status, [], []⟩

/-- DONE with data. -/
def done (s : State) (data : List Byte) : Answer := ⟨s, .done, data, []⟩

/-- How a command is taken (R165): discarded and counted when the reply queue is full, else executed, with
exactly one REPLY appended; a completion made by its event follows that REPLY (R179). -/
def State.takeCommand (s : State) (code tag : Byte) (body : State → Answer) : State :=
  if s.replies.length < Config.replyCapacity then
    let a := body s
    State.flushHeld { a.state with replies := a.state.replies ++ ⟨code, tag, a.status, a.data⟩ :: a.more }
  else s.modCounters fun c => { c with discards := gain c.discards }

/-! ## Checks shared by commands (R166) -/

/-- The commands refused while UNCONFIGURED. -/
def whenRunning (s : State) (k : Answer) : Answer :=
  if s.engine = .unconfigured then refuse s .notConfigured else k

/-- No parameters. -/
def noParams (s : State) (params : List Byte) (k : Answer) : Answer :=
  if params = [] then k else refuse s .badParam

/-- One node index 0..47 naming a present record (checks 2 to 4 of R166). -/
def onNode (s : State) (params : List Byte) (k : Nat → NodeRec → NodeRun → Answer) : Answer :=
  whenRunning s <|
    match params with
    | [i] =>
      if i.toNat < Config.nodeCount then
        match s.active.node? i.toNat, s.node? i.toNat with
        | some r, some n => k i.toNat r n
        | _, _ => refuse s .wrongState
      else refuse s .badParam
    | _ => refuse s .badParam

/-- The zone an index names: a present HEAD or NODE record with its records. -/
def State.zoneAt (s : State) (z : Nat) : Option (NodeRec × Zone) :=
  (s.active.position? z).bind fun r => (s.zone? z).map fun x => (r, x)

/-- One zone index 0..47 naming a HEAD or NODE (checks 2 to 4 of R166). -/
def onZone (s : State) (params : List Byte) (k : Nat → NodeRec → Zone → Answer) : Answer :=
  whenRunning s <|
    match params with
    | [z] =>
      if z.toNat < Config.nodeCount then
        match s.zoneAt z.toNat with
        | some (r, x) => k z.toNat r x
        | none => refuse s .wrongState
      else refuse s .badParam
    | _ => refuse s .badParam

/-! ## Profiles and modes (R62, R63) -/

/-- The number of a zone's active profile: the heightened profile in HEIGHTENED, else the standard one (R63). -/
def profileNumber (mode : Mode) (r : NodeRec) : Fin 16 :=
  match r.zonePart with
  | none => 0
  | some p => if mode = .heightened then p.heightenedProfile else p.standardProfile

/-- The number of the active profile of a zone as it stands. -/
def State.profileNumber (s : State) (z : Nat) : Fin 16 :=
  match s.active.node? z with
  | none => 0
  | some r => Machine.profileNumber (s.feeders.get r.feeder).effective r

/-- The active profile of a zone as it stands (R63). -/
def State.profile (s : State) (z : Nat) : ZoneProfile := s.active.zoneProfile (s.profileNumber z)

/-- The feeder of a zone, by its defining record. -/
def State.feederOf (s : State) (z : Nat) : Fin 4 := ((s.active.node? z).map (·.feeder)).getD 0

end Sys2Proof.Machine
end

