-- ==== Sys2Proof/Machine/Capture.lean ====
section
/-!
DEFINITION. The capture unit: history rings (R139, R140), triggers (R142, R143), slot allocation (R144) and
filling (R145).
-/

namespace Sys2Proof.Machine

/-- The last `n` elements of a list. -/
def lastN {α : Type} (n : Nat) (xs : List α) : List α := xs.drop (xs.length - n)

/-- The slot of a feeder that is FILLING; at most one is (R143). -/
def State.fillingSlot (s : State) (f : Fin 4) : Option (Fin 4) :=
  four.find? fun i => decide ((s.slots.get i).state = .filling ∧ (s.slots.get i).feeder = some f)

/-- The FREE slot with the lowest number (R143). -/
def State.freeSlot (s : State) : Option (Fin 4) := four.find? fun i => decide ((s.slots.get i).state = .free)

/-- The slot a trigger allocates (R144): the pre-trigger part is the last p records of the feeder's ring, p the
smaller of the pre count and the ring's fill. -/
def State.newSlot (s : State) (f : Fin 4) (kind : TriggerKind) (subject : Option Nat) : Slot :=
  let pre := lastN s.active.header.preCount (s.rings.get f)
  { state := .filling
    feeder := some f
    kind := some kind
    subject := subject
    time := some s.now
    preRecords := pre.length
    postTarget := s.active.header.postCount
    records := pre
    further := 0 }

/-- A FILLING slot counts a further trigger, stopping at 255 (R143). -/
def Slot.countFurther (x : Slot) : Slot := { x with further := satAdd 255 x.further 1 }

/-- A capture trigger is taken: a further trigger of the FILLING slot, an allocation, or a miss (R143). -/
def State.captureTrigger (s : State) (f : Fin 4) (kind : TriggerKind) (subject : Option Nat) : State :=
  match s.fillingSlot f with
  | some i => { s with slots := s.slots.set i (s.slots.get i).countFurther }
  | none =>
    match s.freeSlot with
    | some i => { s with slots := s.slots.set i (s.newSlot f kind subject) }
    | none => { s with missed := satAdd 65535 s.missed 1 }

/-- The bit of a trigger kind in the header's capture trigger mask; CAPTURE NOW is always raised (R142). -/
def State.selects (s : State) : TriggerKind → Bool
  | .suspect => s.active.header.triggerMask.getLsbD 0
  | .trip => s.active.header.triggerMask.getLsbD 1
  | .motion => s.active.header.triggerMask.getLsbD 2
  | .captureNow => true

/-- Raise a trigger if the header's mask selects its kind (R142). -/
def State.raiseTrigger (s : State) (f : Fin 4) (kind : TriggerKind) (subject : Option Nat) : State :=
  if s.selects kind then s.captureTrigger f kind subject else s

/-- A record joins a slot, which freezes when its post-trigger part reaches its target (R145). -/
def Slot.append (x : Slot) (r : CaptureRecord) : Slot :=
  { x with
    records := x.records ++ [r]
    state := if x.postTarget ≤ x.records.length + 1 - x.preRecords then .frozen else x.state }

/-- A record joins the ring of its feeder, which keeps the last 128, and the feeder's FILLING slot (R140, R145).
The ring of a feeder with no HEAD receives no records. -/
def State.pushRecord (s : State) (f : Fin 4) (r : CaptureRecord) : State :=
  if s.active.feederUsed f then
    { s with
      rings := s.rings.set f (lastN Config.ringCapacity (s.rings.get f ++ [r]))
      slots :=
        match s.fillingSlot f with
        | some i => s.slots.set i ((s.slots.get i).append r)
        | none => s.slots }
  else s

/-- A capture record as READ CAPTURE returns it, 25 bytes (R121). -/
def CaptureRecord.encode (r : CaptureRecord) : List Byte :=
  [r.address, r.sequence] ++ be32 r.time.toNat ++ [r.flags]
    ++ r.values.toList.flatMap fun m => be16 m.i ++ be16 m.v ++ be16 m.h

/-- The records a reading returns: r of them from the start index on (R146). -/
def Slot.window (x : Slot) (start count : Nat) : List CaptureRecord := (x.records.drop start).take count

/-- The slot header of READ CAPTURE, 18 bytes (R121, R146). -/
def Slot.header (x : Slot) (i : Fin 4) (start count : Nat) : List Byte :=
  [byteOf i, x.state.code, indexByte (x.feeder.map Fin.val), triggerCode x.kind, indexByte x.subject]
    ++ be32 ((x.time.map BitVec.toNat).getD 0) ++ [byteOf x.preRecords] ++ be16 x.records.length
    ++ be16 x.postTarget ++ [byteOf x.further] ++ be16 start ++ [byteOf (x.window start count).length]

end Sys2Proof.Machine
end

