-- ==== Sys2Proof/Machine/Verdicts.lean ====
section
/-!
DEFINITION. Verdict output: raising a verdict into the queue (R106 to R108), the reconciliation of the queue at
ACTIVATE (R110), and the trip lines (R112 to R117).
-/

namespace Sys2Proof.Machine

/-! ## The verdict queue -/

/-- The indications on the faulted phase, none when the faulted phase is none (R77, R108). -/
def Evaluation.mask (e : Evaluation) : Indications :=
  match e.faulted with
  | none => .none
  | some p => (e.perPhase.get p).indications

/-- A new entry of a verdict kind: the snapshot of the zone as it stands (R108), the kind alone in its history. -/
def verdictEntry (now : Time) (z : Nat) (r : NodeRec) (x : Zone) (kind : VerdictKind) : VerdictEntry where
  zone := z
  address := r.address
  feeder := r.feeder
  kind := kind
  history := kind.bit
  state := x.run.state
  faulted := x.eval.faulted
  indications := x.eval.mask
  evidence := x.eval.evidence
  trips := x.run.trips
  reason := x.run.reason
  raised := now

/-- A raise coalesces into the zone's unsent entry, which keeps its place and its history, or joins the tail (R107). -/
def raiseInto (e : VerdictEntry) : List VerdictEntry → List VerdictEntry
  | [] => [e]
  | q :: qs => if q.zone = e.zone then { e with history := q.history ||| e.history } :: qs else q :: raiseInto e qs

/-- Raise a verdict for a zone (R100, R107). -/
def State.raise (s : State) (z : Nat) (kind : VerdictKind) : State :=
  { s with
    verdicts :=
      match s.zoneAt z with
      | none => s.verdicts
      | some (r, x) => raiseInto (verdictEntry s.now z r x kind) s.verdicts }

/-- The queue at a successful ACTIVATE: entries of kept zones move with their zone, the others leave (R110). -/
def reconcileVerdicts (old new : Tables) (q : List VerdictEntry) : List VerdictEntry :=
  q.filterMap fun e => (keptTo old new e.zone).map fun j => { e with zone := j }

/-! ## Trip lines -/

/-- A zone stands in TRIPPED or LOCKOUT. -/
def Zone.isTripped (x : Zone) : Bool := decide (x.run.state = .tripped ∨ x.run.state = .lockout)

/-- The record's trip mask names the line. -/
def NodeRec.namesLine (r : NodeRec) (l : Fin 4) : Bool := r.zonePart.any fun p => p.tripMask.getLsbD l

/-- The line is demanded: a zone in TRIPPED or LOCKOUT names it (R113). -/
def State.demanded (s : State) (l : Fin 4) : Bool :=
  (List.range s.zones.length).any fun z => (s.zoneAt z).any fun rx => rx.2.isTripped && rx.1.namesLine l

/-- The line's policy condition (R112). -/
def State.policyCondition (s : State) (l : Fin 4) : Bool :=
  match s.active.header.policies.get l with
  | .unused => false
  | .direct => s.demanded l
  | .backup => s.demanded l && decide (s.presence = .absent)

/-- A line proof pulse runs on the line (R117). -/
def State.pulseOn (s : State) (l : Fin 4) : Bool :=
  decide (s.proof.state = .pulseRunning ∧ s.proof.target = some l.val)

/-- The recomputation of all four lines (R114, R115), which also sets the taken-over mark when the policy condition
of the line under a pulse holds (R178). -/
def State.recomputeLines (s : State) : State :=
  { s with
    lines := .of fun l => s.policyCondition l || s.pulseOn l
    proof := { s.proof with
      takenOver := s.proof.takenOver || four.any fun l => s.pulseOn l && s.policyCondition l } }

end Sys2Proof.Machine
end

