-- ==== Sys2Proof/Machine/ZoneStates.lean ====
section
/-!
DEFINITION. The zone state machine (R83 to R104): entries and exits of every zone state, the hand-offs of the
topology resolver, the confirm, and the release.
-/

namespace Sys2Proof.Machine

/-! ## What an outcome calls for (R85, R86) -/

/-- What an evaluation's outcome calls for. -/
inductive Decision where
  /-- the zone stays where it is -/
  | stay
  /-- entry to SUSPECT -/
  | suspect
  /-- entry to SUSPECT, then WOULD_TRIP -/
  | suspectWouldTrip
  /-- WOULD_TRIP if the flag is no; the zone stays SUSPECT -/
  | wouldTrip
  /-- a confirm -/
  | confirm
  /-- return from SUSPECT to NORMAL -/
  | normal
deriving DecidableEq, Repr

/-- The first case of R85 (a zone that was NORMAL) or R86 (a zone that was SUSPECT) that applies; a zone in another
state is not evaluated (R64) and stays. -/
def decideOutcome (p : ZoneProfile) (mode : Mode) (was : ZoneState) (evidence : Nat) : Decision :=
  match was with
  | .normal =>
    if p.tConfirm ≤ evidence then (if mode = .inhibited then .suspectWouldTrip else .confirm)
    else if p.tSuspect ≤ evidence then .suspect
    else .stay
  | .suspect =>
    if p.tConfirm ≤ evidence then (if mode = .inhibited then .wouldTrip else .confirm)
    else if evidence = 0 then .normal
    else .stay
  | _ => .stay

/-! ## Changes of the state record -/

/-- Entry to SUSPECT (R87). -/
def ZoneRecord.toSuspect (r : ZoneRecord) (now : Time) (p : ZoneProfile) : ZoneRecord :=
  { r with state := .suspect, reason := none, stepDeadline := some (after now p.stepTime), wouldTrip := false }

/-- Return from SUSPECT to NORMAL (R86). -/
def ZoneRecord.toNormal (r : ZoneRecord) : ZoneRecord :=
  { r with state := .normal, reason := none, stepDeadline := none, wouldTrip := false }

/-- The trip count after a confirm (R89). -/
def confirmTrips (p : ZoneProfile) (trips : Nat) : Nat := min p.lockoutLimit (trips + 1)

/-- The state a confirm enters (R89). -/
def confirmState (p : ZoneProfile) (trips : Nat) : ZoneState :=
  if p.lockoutLimit ≤ confirmTrips p trips then .lockout else .tripped

/-- The verdict a confirm raises (R89). -/
def confirmKind (p : ZoneProfile) (trips : Nat) : VerdictKind :=
  if p.lockoutLimit ≤ confirmTrips p trips then .lockout else .trip

/-- A confirm (R89): count, state and reason, every timer cancelled. -/
def ZoneRecord.confirmed (r : ZoneRecord) (p : ZoneProfile) : ZoneRecord where
  state := confirmState p r.trips
  reason := some .evidence
  trips := confirmTrips p r.trips
  stepDeadline := none
  wouldTrip := false
  graceDeadline := none
  memoryDeadline := none

/-- Entry to ABSORBED (R96). -/
def ZoneRecord.toAbsorbed (r : ZoneRecord) : ZoneRecord :=
  { r with state := .absorbed, reason := none, stepDeadline := none, wouldTrip := false, graceDeadline := none }

/-- Entry to DEGRADED from NORMAL, SUSPECT or ABSORBED (R97): SAFE_TRIP sets the grace deadline. -/
def ZoneRecord.toDegraded (r : ZoneRecord) (now : Time) (p : ZoneProfile) (reason : Reason) : ZoneRecord :=
  { r with
    state := .degraded
    reason := some reason
    stepDeadline := none
    wouldTrip := false
    graceDeadline := match p.lossAction with
      | .report => r.graceDeadline
      | .safeTrip => some (after now p.degradeGrace) }

/-- Entry to TRIPPED with reason BLIND (R98). -/
def ZoneRecord.blinded (r : ZoneRecord) : ZoneRecord :=
  { r with state := .tripped, reason := some .blind, graceDeadline := none, memoryDeadline := none }

/-- Release to NORMAL with a trip count and a trip memory deadline (R92, R93). -/
def ZoneRecord.released (r : ZoneRecord) (trips : Nat) (memory : Option Time) : ZoneRecord :=
  { r with state := .normal, reason := none, trips := trips, memoryDeadline := memory }

/-- Set the reseed mark of each phase (R14, R92, R99). -/
def Evaluation.markReseed (e : Evaluation) : Evaluation :=
  { e with perPhase := e.perPhase.map fun x => { x with reseed := true } }

/-! ## Events on one zone -/

/-- Entry to SUSPECT (R87), with its capture trigger. -/
def State.enterSuspect (s : State) (z : Nat) : State :=
  (s.modRun z fun r => r.toSuspect s.now (s.profile z)).raiseTrigger (s.feederOf z) .suspect (some z)

/-- A confirm (R89): the record, the verdict, the lines, the capture trigger; the proof unit is told (R100). -/
def State.confirm (s : State) (z : Nat) : State :=
  match s.zone? z with
  | none => s
  | some x =>
    ((((s.modRun z fun r => r.confirmed (s.profile z)).raise z (confirmKind (s.profile z) x.run.trips)).abandonProof
      z).recomputeLines).raiseTrigger (s.feederOf z) .trip (some z)

/-- WOULD_TRIP, once per suspect episode (R90). -/
def State.raiseWouldTrip (s : State) (z : Nat) : State :=
  if (s.zone? z).any (fun x => !x.run.wouldTrip) then
    (s.modRun z fun r => { r with wouldTrip := true }).raise z .wouldTrip
  else s

/-- The outcome of an evaluation is taken (R79, R85, R86). -/
def State.takeDecision (s : State) (z : Nat) : Decision → State
  | .stay => s
  | .suspect => s.enterSuspect z
  | .suspectWouldTrip => (s.enterSuspect z).raiseWouldTrip z
  | .wouldTrip => s.raiseWouldTrip z
  | .confirm => s.confirm z
  | .normal => s.modRun z ZoneRecord.toNormal

/-- Entry to ABSORBED (R96): evidence 0, the proof unit told, ABSORBED raised. -/
def State.enterAbsorbed (s : State) (z : Nat) : State :=
  ((s.modZone z fun x => { x with run := x.run.toAbsorbed, eval := { x.eval with evidence := 0 } }).abandonProof
    z).raise z .absorbed

/-- Entry to DEGRADED (R97): the proof unit told, DEGRADED raised. -/
def State.enterDegraded (s : State) (z : Nat) (reason : Reason) : State :=
  ((s.modRun z fun r => r.toDegraded s.now (s.profile z) reason).abandonProof z).raise z .degraded

/-- The other degrade reason, for a zone that is DEGRADED (R97). -/
def State.changeDegraded (s : State) (z : Nat) (reason : Reason) : State :=
  (s.modRun z fun r => { r with reason := some reason }).raise z .degraded

/-- Return from ABSORBED (R99). -/
def State.restoreAbsorbed (s : State) (z : Nat) : State :=
  (s.modZone z fun x => { x with run := { x.run with state := .normal, reason := none }, eval := x.eval.markReseed }).raise
    z .restored

/-- Return from DEGRADED (R99): to SUSPECT where the held evidence is at or above T_suspect, else to NORMAL;
RESTORED shows the state entered (R100; DEDUCED, log entry 9). -/
def State.restoreDegraded (s : State) (z : Nat) : State :=
  let t := s.modRun z fun r => { r with graceDeadline := none }
  if (s.zone? z).any (fun x => decide ((s.profile z).tSuspect ≤ x.eval.evidence)) then
    (t.enterSuspect z).raise z .restored
  else
    (t.modRun z fun r => { r with state := .normal, reason := none }).raise z .restored

/-- The reason DEGRADED carries for an evaluability (R83). -/
def degradeReason : Evaluability → Option Reason
  | .headLost => some .headLost
  | .boundaryOverflow => some .boundaryOverflow
  | .evaluable => none
  | .absorbed => none

/-- A hand-off of the topology resolver reaches a zone (R96, R97, R99); TRIPPED and LOCKOUT hold it (R91). -/
def State.handOff (s : State) (z : Nat) (new : Evaluability) : State :=
  match s.zone? z with
  | none => s
  | some x =>
    match x.run.state, new with
    | .tripped, _ => s
    | .lockout, _ => s
    | .absorbed, .absorbed => s
    | .absorbed, .evaluable => s.restoreAbsorbed z
    | .absorbed, .headLost => s.enterDegraded z .headLost
    | .absorbed, .boundaryOverflow => s.enterDegraded z .boundaryOverflow
    | .degraded, .absorbed => s.enterAbsorbed z
    | .degraded, .evaluable => s.restoreDegraded z
    | .degraded, .headLost => s.changeDegraded z .headLost
    | .degraded, .boundaryOverflow => s.changeDegraded z .boundaryOverflow
    | .normal, .evaluable => s
    | .normal, .absorbed => s.enterAbsorbed z
    | .normal, .headLost => s.enterDegraded z .headLost
    | .normal, .boundaryOverflow => s.enterDegraded z .boundaryOverflow
    | .suspect, .evaluable => s
    | .suspect, .absorbed => s.enterAbsorbed z
    | .suspect, .headLost => s.enterDegraded z .headLost
    | .suspect, .boundaryOverflow => s.enterDegraded z .boundaryOverflow

/-! ## Release (R92 to R94) -/

/-- After a release, the zone follows the evaluability of its topology record (R94). -/
def State.followTopology (s : State) (z : Nat) : State :=
  match s.zone? z with
  | none => s
  | some x =>
    match x.topo.evaluability with
    | .evaluable => s
    | .absorbed => s.enterAbsorbed z
    | .headLost => s.enterDegraded z .headLost
    | .boundaryOverflow => s.enterDegraded z .boundaryOverflow

/-- The release of a TRIPPED or LOCKOUT zone with a trip count and a trip memory deadline (R92, R93): NORMAL with
evidence 0 and reseed marks, CLEARED, the lines, then R94. -/
def State.release (s : State) (z : Nat) (trips : Nat) (memory : Option Time) : State :=
  (((s.modZone z fun x =>
      { x with run := x.run.released trips memory, eval := { x.eval.markReseed with evidence := 0 } }).raise z
        .cleared).recomputeLines).followTopology z

/-- The trip memory deadline RELEASE ZONE sets: none for a trip memory of 0 (R92). -/
def memoryDeadline (now : Time) (p : ZoneProfile) : Option Time :=
  if p.tripMemory = 0 then none else some (after now p.tripMemory)

/-- The BLIND trip at a grace expiry (R98). -/
def State.blindTrip (s : State) (z : Nat) : State :=
  ((s.modRun z ZoneRecord.blinded).raise z .trip).recomputeLines

end Sys2Proof.Machine
end

