-- ==== Sys2Proof/Machine/Topology.lean ====
section
/-!
DEFINITION. The topology resolver: boundary sources (R6), the lower ends of a zone (R7, R8), zones whose upper end
is lost (R9, R10), covered sets (R11), and the recomputation of a feeder with its loss notices, reseed requests
and hand-offs (R12 to R15).
-/

namespace Sys2Proof.Machine

/-! ## The record of a zone, from the tree and the node states -/

/-- The boundary source of a position and whether it is the twin (R6); none when the position is excluded. `live`
says which nodes are LIVE. -/
def boundarySource (t : Tables) (live : Nat → Bool) (p : Nat) : Option (Nat × Bool) :=
  if live p then some (p, false)
  else match t.twinOf p with
    | some q => if live q then some (q, true) else none
    | none => none

/-- The boundary positions and the absorbed members found by expanding a position (R7): one that has a source
closes the zone, an excluded one is absorbed and its children are taken. `fuel` bounds the depth of the descent. -/
def expand (t : Tables) (live : Nat → Bool) : Nat → Nat → List Boundary × List Nat
  | 0, _ => ([], [])
  | fuel + 1, c =>
    match boundarySource t live c with
    | some (source, twin) => ([⟨c, source, twin⟩], [])
    | none =>
      let below := (t.children c).map (expand t live fuel)
      (below.flatMap Prod.fst, c :: below.flatMap Prod.snd)

/-- The expansion of a zone's children: every boundary position found and every absorbed member (R7). A tree is at
most 16 deep, so the descent takes at most 15 levels. -/
def lowerEnds (t : Tables) (live : Nat → Bool) (z : Nat) : List Boundary × List Nat :=
  let below := (t.children z).map (expand t live Config.maxDepth)
  (below.flatMap Prod.fst, below.flatMap Prod.snd)

/-- The boundaries in ascending order of position (R7). -/
def sortBoundaries (t : Tables) (bs : List Boundary) : List Boundary :=
  t.indices.filterMap fun i => bs.find? fun b => decide (b.position = i)

/-- Node indices in ascending order without duplicates (R5). -/
def sortIndices (t : Tables) (is : List Nat) : List Nat := t.indices.filter fun i => decide (i ∈ is)

/-- The host of an absorbed zone (R9): the nearest position above, from `p` on, that has a source, else the HEAD. -/
def hostFrom (t : Tables) (live : Nat → Bool) : Nat → Nat → Nat
  | 0, p => p
  | fuel + 1, p =>
    if (boundarySource t live p).isSome then p
    else match (t.node? p).bind (·.parent) with
      | none => p
      | some q => hostFrom t live fuel q

/-- The topology record of a zone (R5 to R10). -/
def topologyOf (t : Tables) (live : Nat → Bool) (z : Nat) : Topology :=
  let ends := lowerEnds t live z
  let bounds := sortBoundaries t ends.1
  let members := sortIndices t ends.2
  match boundarySource t live z with
  | some (source, twin) =>
    { position := z
      source := some source
      twinInUse := twin
      evaluability := if Config.boundaryCapacity < bounds.length then .boundaryOverflow else .evaluable
      host := none
      count := bounds.length
      list := bounds.take Config.boundaryCapacity
      absorbed := members }
  | none =>
    if (t.node? z).any (fun r => decide (r.role = .head)) then
      { position := z
        source := none
        twinInUse := false
        evaluability := .headLost
        host := none
        count := bounds.length
        list := bounds.take Config.boundaryCapacity
        absorbed := members }
    else
      { position := z
        source := none
        twinInUse := false
        evaluability := .absorbed
        host := ((t.node? z).bind (·.parent)).map (hostFrom t live Config.maxDepth)
        count := 0
        list := []
        absorbed := [] }

/-- A position with its twin (R11). -/
def withTwin (t : Tables) (p : Nat) : List Nat := p :: (t.twinOf p).toList

/-- The covered set of a zone, from its topology record (R11). -/
def coveredSet (t : Tables) (x : Topology) : List Nat :=
  withTwin t x.position ++ x.list.flatMap (fun b => withTwin t b.position) ++ x.absorbed.flatMap (withTwin t)

/-! ## Recomputation of a feeder -/

/-- The sources of the effective downstream list. -/
def Topology.sources (x : Topology) : List Nat := x.list.map (·.source)

/-- The upstream source or the set of boundary sources differs (R14). -/
def sourcesChanged (old new : Topology) : Bool :=
  decide (old.source ≠ new.source) || !sameSet old.sources new.sources

/-- A zone's topology record is replaced, and its reseed marks are set where its sources changed (R5, R14), in every
zone state: those of a TRIPPED or LOCKOUT zone too, whose evaluation record R91 holds (DESIGN CHOICE, log entry 19). -/
def Zone.withTopology (x : Zone) (new : Topology) : Zone :=
  { x with topo := new, eval := if sourcesChanged x.topo new then x.eval.markReseed else x.eval }

/-- The new topology record of a zone as the state stands. -/
def State.newTopology (s : State) (z : Nat) : Topology := topologyOf s.active s.isLive z

/-- The hand-offs of a recomputation: the zones whose evaluability differs, ascending, with the new value (R15). -/
def State.handOffs (s : State) (f : Fin 4) : List (Nat × Evaluability) :=
  (s.active.zonesOf f).filterMap fun z =>
    (s.zone? z).bind fun x =>
      if x.topo.evaluability = (s.newTopology z).evaluability then none else some (z, (s.newTopology z).evaluability)

/-- The records of a feeder are replaced, with their reseed requests (R12, R14). -/
def State.replaceTopology (s : State) (f : Fin 4) : State :=
  { s with
    zones := (s.active.zonesOf f).foldl
      (fun zs z => zs.modify z (Option.map fun x => x.withTopology (s.newTopology z))) s.zones }

/-- The recomputation of a feeder (R12): the records and reseed requests, then the hand-offs in ascending zone
number (R15). -/
def State.recompute (s : State) (f : Fin 4) : State :=
  (s.handOffs f).foldl (fun t h => t.handOff h.1 h.2) (s.replaceTopology f)

/-- The recomputations of ACTIVATE and RESTART: every used feeder, ascending (R17). -/
def State.recomputeAll (s : State) : State := s.active.usedFeeders.foldl State.recompute s

/-- A loss notice: the zone's loss record runs for the loss window of its active profile (R75). -/
def State.noteLoss (s : State) (z : Nat) : State :=
  s.modZone z fun x => { x with eval := { x.eval with lossRecord := some (after s.now (s.profile z).lossWindow) } }

/-- The loss notices for a node that fell silent: the zones of its feeder whose list holds it as a boundary source,
ascending, from the records as they stand (R13). -/
def State.lossNotices (s : State) (f : Fin 4) (node : Nat) : State :=
  ((s.active.zonesOf f).filter fun z => (s.zone? z).any fun x => decide (node ∈ x.topo.sources)).foldl
    State.noteLoss s

end Sys2Proof.Machine
end

