-- ==== Sys2Proof/Machine/Configuration.lean ====
section
/-!
DEFINITION. The configuration store: LOAD, CLEAR STAGED and READ TABLE (R153 to R156), and ACTIVATE with the
reconciliation of the runtime (R157 to R164, R39, R57, R103, R110).
-/

namespace Sys2Proof.Machine

/-! ## Writing and reading the copies -/

def State.modStaged (s : State) (g : Tables → Tables) : State := { s with staged := g s.staged }

/-- LOAD HEADER (R153). -/
def execLoadHeader (tag : Byte) (params : List Byte) (s : State) : Host.Outcome State Fault Refusal :=
  .next <| s.takeCommand codeLoadHeader tag fun s =>
    match parseHeader params with
    | none => refuse s .badParam
    | some h => done (s.modStaged fun t => { t with header := h }) []

/-- A profile or node number below `n`, and the record bytes after it. -/
def numbered (n : Nat) (params : List Byte) : Option (Nat × List Byte) :=
  match params with
  | [] => none
  | i :: bytes => if i.toNat < n then some (i.toNat, bytes) else none

/-- LOAD NODE (R154): the node index, then a record that is absent or present. -/
def execLoadNode (tag : Byte) (params : List Byte) (s : State) : Host.Outcome State Fault Refusal :=
  .next <| s.takeCommand codeLoadNode tag fun s =>
    match (numbered Config.nodeCount params).bind fun ib => (parseNode ib.2).map fun r => (ib.1, r) with
    | none => refuse s .badParam
    | some (i, r) => done (s.modStaged fun t => { t with nodes := t.nodes.set i r }) []

/-- LOAD ZONE PROFILE (R153). -/
def execLoadZoneProfile (tag : Byte) (params : List Byte) (s : State) : Host.Outcome State Fault Refusal :=
  .next <| s.takeCommand codeLoadZoneProfile tag fun s =>
    match (numbered Config.zoneProfileCount params).bind fun ib => (parseZoneProfile ib.2).map fun p => (ib.1, p) with
    | none => refuse s .badParam
    | some (i, p) => done (s.modStaged fun t => { t with zoneProfiles := t.zoneProfiles.set i p }) []

/-- LOAD CHANNEL PROFILE (R153). -/
def execLoadChannelProfile (tag : Byte) (params : List Byte) (s : State) : Host.Outcome State Fault Refusal :=
  .next <| s.takeCommand codeLoadChannelProfile tag fun s =>
    match (numbered Config.channelProfileCount params).bind fun ib =>
        (parseChannelProfile ib.2).map fun p => (ib.1, p) with
    | none => refuse s .badParam
    | some (i, p) => done (s.modStaged fun t => { t with channelProfiles := t.channelProfiles.set i p }) []

/-- CLEAR STAGED (R155). -/
def execClearStaged (tag : Byte) (params : List Byte) (s : State) : Host.Outcome State Fault Refusal :=
  .next <| s.takeCommand codeClearStaged tag fun s => noParams s params (done (s.modStaged fun _ => .empty) [])

/-- The copy a READ TABLE names: 0 ACTIVE, 1 STAGED (R156). -/
def State.copy (s : State) (b : Byte) : Option Tables :=
  if b = 0 then some s.active else if b = 1 then some s.staged else none

/-- The record an item and index name: 0 header, 1 node, 2 zone profile, 3 channel profile (R156). -/
def Tables.item (t : Tables) (item index : Byte) : Option (List Byte) :=
  if item = 0 then (if index = 0 then some t.header.encode else none)
  else if item = 1 then
    (if index.toNat < Config.nodeCount then some (encodeNode (t.node? index.toNat)) else none)
  else if item = 2 then (finOf 16 index).map fun i => (t.zoneProfile i).encode
  else if item = 3 then (finOf 8 index).map fun i => (t.channelProfile i).encode
  else none

/-- READ TABLE (R156). -/
def execReadTable (tag : Byte) (params : List Byte) (s : State) : Host.Outcome State Fault Refusal :=
  .next <| s.takeCommand codeReadTable tag fun s =>
    match params with
    | [copy, item, index] =>
      match (s.copy copy).bind fun t => t.item item index with
      | some bytes => done s (copy :: item :: index :: bytes)
      | none => refuse s .badParam
    | _ => refuse s .badParam

/-! ## Reconciliation (R39, R57, R103, R160) -/

/-- The voltage of a channel is cleared (R57). -/
def Channel.clearVoltage (c : Channel) : Channel := { c with vLast := 0 }

/-- The record of a kept node (R39, R57): whole where voltage sensing is unchanged, else EXPECTED unless it is BARRED,
with Vlast 0 where sensing is now off. -/
def NodeRun.kept (n : NodeRun) (old new : NodeRec) : NodeRun :=
  if old.voltageSensing = new.voltageSensing then n
  else
    let m := if new.voltageSensing then n else { n with channels := n.channels.map Channel.clearVoltage }
    if m.state = .barred then m
    else { m with state := .expected, seqExpect := none, silenceDeadline := none, warmUp := 0 }

/-- The runtime record at an index of the new copy: kept, or new (R38, R39). -/
def reconcileNode (old new : Tables) (runs : List (Option NodeRun)) (j : Nat) (r : NodeRec) : NodeRun :=
  match (keptNode old new j).bind fun i => (old.node? i).bind fun o => ((runs[i]?).join).map fun n => (o, n) with
  | some (o, n) => n.kept o r
  | none => .fresh

/-- Step 2 of R160: the runtime records of the new ACTIVE copy. -/
def reconcileNodes (old new : Tables) (runs : List (Option NodeRun)) : List (Option NodeRun) :=
  new.indices.map fun j => (new.node? j).map (reconcileNode old new runs j)

/-- A kept zone's trip count is lowered to the lockout limit of its active profile in the new copy (R84, R103). -/
def Zone.capTrips (x : Zone) (limit : Nat) : Zone := { x with run := { x.run with trips := min x.run.trips limit } }

/-- The zone at an index of the new copy: carried over, or fresh (R81, R103). -/
def reconcileZone (old new : Tables) (feeders : Four Feeder) (zones : List (Option Zone)) (j : Nat) (r : NodeRec) :
    Zone :=
  match (keptZone old new j).bind fun i => (zones[i]?).join with
  | some x => x.capTrips (new.zoneProfile (profileNumber (feeders.get r.feeder).effective r)).lockoutLimit
  | none => .fresh j

/-- Step 3 of R160: the zones of the new ACTIVE copy. -/
def reconcileZones (old new : Tables) (feeders : Four Feeder) (zones : List (Option Zone)) : List (Option Zone) :=
  new.indices.map fun j => (new.position? j).map (reconcileZone old new feeders zones j)

/-- Step 5 of R160: a pending proof follows its kept zone, and is abandoned with a dropped one (R177). -/
def State.reconcileProof (s : State) (old : Tables) : State :=
  if s.proof.state = .zonePending then
    match s.proof.target.bind (keptTo old s.active) with
    | some j => { s with proof := { s.proof with target := some j } }
    | none => s.completeProof .abandoned []
  else s

/-- Steps 1 to 4 of R160: the copies exchange their contents, and nodes, zones and verdict entries are reconciled. -/
def State.swapTables (s : State) : State :=
  { s with
    active := s.staged
    staged := s.active
    nodes := reconcileNodes s.active s.staged s.nodes
    zones := reconcileZones s.active s.staged s.feeders s.zones
    verdicts := reconcileVerdicts s.active s.staged s.verdicts }

/-- A feeder's evaluation deadline is set from now (R60). -/
def Feeder.arm (x : Feeder) (now : Time) (period : Nat) : Feeder := { x with deadline := some (after now period) }

/-- Every feeder's deadline armed from the ACTIVE header (R60, R81). -/
def State.armAll (s : State) : State :=
  { s with feeders := .of fun f => (s.feeders.get f).arm s.now (s.active.header.periods.get f) }

/-- Step 8 of R160: at the first successful ACTIVATE the deadlines are armed and the engine becomes RUNNING (R162). -/
def State.startRunning (s : State) : State :=
  if s.engine = .unconfigured then { s.armAll with engine := .running } else s

/-- The successful ACTIVATE, steps 1 to 8 (R160). -/
def State.activate (s : State) : State :=
  (((s.swapTables.reconcileProof s.active).recomputeAll).recomputeLines).startRunning

/-- The lowest ACTIVE index of a TRIPPED or LOCKOUT zone that the swap would drop (R159). -/
def State.droppedTripped (s : State) : Option Nat :=
  s.active.indices.find? fun i =>
    (s.zone? i).any Zone.isTripped && (keptTo s.active s.staged i).isNone

/-- ACTIVATE (R157, R159, R160, R164). -/
def execActivate (tag : Byte) (params : List Byte) (s : State) : Host.Outcome State Fault Refusal :=
  .next <| s.takeCommand codeActivate tag fun s =>
    noParams s params <|
      match s.staged.failure with
      | some (i, reason) => ⟨s, .badTable, [byteOf i, reason], []⟩
      | none =>
        match s.droppedTripped with
        | some i => ⟨s, .refusedTripped, [byteOf i, 12], []⟩
        | none => done s.activate []

end Sys2Proof.Machine
end

