-- ==== Sys2Proof/Machine/Channels.lean ====
section
/-!
DEFINITION. The channel processor: what a CYCLE frame does to a channel (R44 to R53), and the drop ratio (R54).
-/

namespace Sys2Proof.Machine

/-- One step of an average toward `target`, the difference divided by 2^k and truncated toward zero (R47). -/
def averageStep (k target old : Nat) : Nat :=
  ((old : Int) + truncDiv ((target : Int) - (old : Int)) (2 ^ k)).toNat

/-- The size of the change between two reports (R49). -/
def absDiff (x y : Nat) : Nat := (x - y) + (y - x)

/-- The irregularity score after a frame: it leaks its share and gains the capped change (R49). -/
def scoreStep (kl hCap s h hPrev : Nat) : Nat :=
  min 65535 (s - s / 2 ^ kl + min (absDiff h hPrev) hCap)

/-- The arc flag and the arc release run after a new score (R52, R53). -/
def arcStep (p : ChannelProfile) (flag : Bool) (run s : Nat) : Bool × Nat :=
  if flag then
    if p.sOff ≤ s then (true, 0)
    else if p.arcReleaseCount ≤ run + 1 then (false, 0)
    else (true, run + 1)
  else (decide (p.sOn ≤ s), 0)

/-- Vlast after a frame (R51). -/
def voltageStep (sensing absent : Bool) (v old : Nat) : Nat :=
  if sensing then (if absent then old else v) else 0

/-- The current side of a seeding frame (R46). -/
def Channel.seed (c : Channel) (saturated : Bool) (m : Measure) : Channel :=
  { c with
    iFast16 := 16 * m.i
    iSlow16 := 16 * m.i
    hPrev := m.h
    score := 0
    arcFlag := false
    arcRun := 0
    saturated := saturated
    seeded := true }

/-- The current side of an ordinary frame whose phase is not flagged saturated (R47, R49, R52). -/
def Channel.step (c : Channel) (p : ChannelProfile) (m : Measure) : Channel :=
  let s := scoreStep p.kl p.hCap c.score m.h c.hPrev
  let arc := arcStep p c.arcFlag c.arcRun s
  { c with
    iFast16 := averageStep p.kf (16 * m.i) c.iFast16
    iSlow16 := averageStep p.ks (16 * m.i) c.iSlow16
    hPrev := m.h
    score := s
    arcFlag := arc.1
    arcRun := arc.2
    saturated := false }

/-- The current side of a frame: seeding, held at saturation (R50), or stepped. -/
def Channel.current (c : Channel) (p : ChannelProfile) (saturated : Bool) (m : Measure) : Channel :=
  if !c.seeded then c.seed saturated m
  else if saturated then { c with saturated := true }
  else c.step p m

/-- The channel after a frame (R44): the raw record (R45), the current side, the voltage (R51). -/
def Channel.take (c : Channel) (p : ChannelProfile) (sensing absent saturated : Bool) (m : Measure) : Channel :=
  { c.current p saturated m with
    iLast := m.i
    hLast := m.h
    vLast := voltageStep sensing absent m.v c.vLast }

/-- A CYCLE frame taken for all three channels of a node (R44). -/
def takeChannels (p : ChannelProfile) (sensing : Bool) (payload : List Byte) (cs : PerPhase Channel) :
    PerPhase Channel :=
  .of fun ph => (cs.get ph).take p sensing (voltageAbsent (cycleFlags payload)) (phaseBit (cycleFlags payload) ph)
    ((cycleValues payload).get ph)

/-- The drop ratio D (R54). -/
def dropRatio (iMin : Nat) (c : Channel) : Nat :=
  if 16 * iMin ≤ c.iSlow16 ∧ c.iFast16 < c.iSlow16 then 1000 * (c.iSlow16 - c.iFast16) / c.iSlow16 else 0

end Sys2Proof.Machine
end

