-- ==== Sys2Proof/Machine/Nodes.lean ====
section
/-!
DEFINITION. The node tracker: identity (R21, R22), warm-up (R23, R27), cycle frames (R24 to R26), silence (R28),
health (R29, R30), bar and admission (R32, R33), alerts and motion holds (R35 to R37).
-/

namespace Sys2Proof.Machine

/-! ## Changes of a runtime record -/

/-- Entry to WARMING (R23): the next accepted CYCLE frame seeds the node's channels. -/
def NodeRun.toWarming (n : NodeRun) (now : Time) (p : ChannelProfile) : NodeRun :=
  { n with
    state := .warming
    seqExpect := none
    silenceDeadline := some (after now p.silenceLimit)
    warmUp := 0
    channels := n.channels.map fun c => { c with seeded := false } }

/-- Entry to BARRED (R22). -/
def NodeRun.toBarred (n : NodeRun) (reason : BarReason) : NodeRun :=
  { n with state := .barred, barReason := some reason, seqExpect := none, silenceDeadline := none }

/-- Entry to EXPECTED by ADMIT NODE (R33). -/
def NodeRun.admitted (n : NodeRun) : NodeRun :=
  { n with state := .expected, barReason := none, seqExpect := none, silenceDeadline := none, warmUp := 0 }

/-- Entry to SILENT at the silence deadline, counted (R28). -/
def NodeRun.toSilent (n : NodeRun) : NodeRun :=
  { n with
    state := .silent
    seqExpect := none
    silenceDeadline := none
    health := { n.health with silences := satAdd 65535 n.health.silences 1 } }

/-- An attribute reaches its threshold: the threshold is not 0 and the attribute is at or above it (R29). -/
def reachesThreshold (threshold value : Nat) : Bool := decide (threshold ≠ 0 ∧ threshold ≤ value)

/-- The outcome of a health check that found an attribute at its threshold, or found none (R29, R30). -/
def NodeRun.checked (n : NodeRun) (autoBar hit : Bool) : NodeRun :=
  if hit then (if autoBar then { n with exceeded := true }.toBarred .health else { n with exceeded := true }) else n

/-- The node is LIVE. -/
def NodeRun.isLive (n : NodeRun) : Bool := decide (n.state = .live)

/-- A node's record is replaced, and its feeder recomputed when the node entered or left LIVE (R12, R34). -/
def State.changeNode (s : State) (i : Nat) (f : Fin 4) (old new : NodeRun) : State :=
  if old.isLive = new.isLive then s.setNode i new else (s.setNode i new).recompute f

/-! ## Identity (R21, R22) -/

/-- An IDENT frame's voltage-sensing byte and phases-fitted mask match the node record (R21). -/
def identMatches (r : NodeRec) (sensing fitted : Byte) : Bool :=
  decide (sensing = flagByte r.voltageSensing) && phaseBit fitted .a && phaseBit fitted .b && phaseBit fitted .c

/-- The record after an IDENT frame (R22). -/
def NodeRun.ident (n : NodeRun) (now : Time) (r : NodeRec) (p : ChannelProfile) (cls sensing fitted : Byte) : NodeRun :=
  if n.state = .barred then n
  else if identMatches r sensing fitted then
    if n.state = .expected ∨ (n.state = .silent ∧ r.autoReturn) then { n with unitClass := some cls }.toWarming now p
    else { n with unitClass := some cls }
  else { n with unitClass := some cls }.toBarred .mismatch

/-! ## Cycle frames (R24 to R27) -/

/-- The outcome of the sequence check (R25). -/
inductive SeqCheck where
  /-- accepted after a gap of `d` missing frames, 0 when in order -/
  | accepted (d : Nat)
  /-- stale or duplicate -/
  | stale
deriving DecidableEq, Repr

/-- The sequence check: d = (sequence - e) mod 256; 0..127 accepted, 128..255 stale (R25). -/
def seqCheck (expect : Option Byte) (sequence : Byte) : SeqCheck :=
  match expect with
  | none => .accepted 0
  | some e => if (sequence - e).toNat < 128 then .accepted (sequence - e).toNat else .stale

/-- The record after a stale frame: counted, and checked for health (R25, R29). -/
def NodeRun.stale (n : NodeRun) (autoBar : Bool) (p : ChannelProfile) : NodeRun :=
  let m := { n with health := { n.health with stales := satAdd 65535 n.health.stales 1 } }
  m.checked autoBar (reachesThreshold p.thresholds.stales m.health.stales)

/-- Steps 1 and 2 of R26: the gap and the saturated phases are counted, and the attributes that gained are checked. -/
def NodeRun.countFrame (n : NodeRun) (autoBar : Bool) (p : ChannelProfile) (d saturated : Nat) : NodeRun :=
  let m := { n with
    health := { n.health with
      gaps := satAdd 65535 n.health.gaps d
      saturations := satAdd 65535 n.health.saturations saturated } }
  m.checked autoBar
    ((decide (d ≠ 0) && reachesThreshold p.thresholds.gaps m.health.gaps)
      || (decide (saturated ≠ 0) && reachesThreshold p.thresholds.saturations m.health.saturations))

/-- Steps 3 to 5 and 7 of R26, for a node in WARMING or LIVE that was not barred: expectation, deadline, channels, and
in WARMING the warm-up progress, which may take the node to LIVE (R27). -/
def NodeRun.acceptFrame (n : NodeRun) (now : Time) (sensing : Bool) (p : ChannelProfile) (fr : Frame) : NodeRun :=
  let m := { n with
    seqExpect := some (fr.sequence + 1)
    silenceDeadline := some (after now p.silenceLimit)
    channels := takeChannels p sensing fr.payload n.channels }
  if n.state = .warming then
    { m with
      warmUp := satAdd 1024 n.warmUp 1
      state := if p.warmUpCount ≤ satAdd 1024 n.warmUp 1 then .live else .warming }
  else m

/-- The capture record made from a CYCLE frame (R139). -/
def recordOf (now : Time) (fr : Frame) : CaptureRecord :=
  ⟨fr.address, fr.sequence, now, cycleFlags fr.payload, cycleValues fr.payload⟩

/-- A CYCLE frame taken from a node in WARMING or LIVE (R25, R26). `old` is the record before the event, `n` the
record in WARMING or LIVE that takes the frame. -/
def State.cycleTaken (s : State) (i : Nat) (r : NodeRec) (old n : NodeRun) (fr : Frame) : State :=
  let p := s.active.profileOf r
  match seqCheck n.seqExpect fr.sequence with
  | .stale => s.changeNode i r.feeder old (n.stale r.autoBar p)
  | .accepted d =>
    let m := n.countFrame r.autoBar p d (countPhases (cycleFlags fr.payload))
    if m.state = .barred then s.changeNode i r.feeder old m
    else
      (s.pushRecord r.feeder (recordOf s.now fr)).changeNode i r.feeder old
        (m.acceptFrame s.now r.voltageSensing p fr)

/-- A CYCLE frame that reaches a node (R24): ignored and counted in EXPECTED, the start of a warm-up in SILENT with
auto-return, ignored in BARRED and in SILENT without it, taken in WARMING and LIVE. -/
def State.takeCycle (s : State) (i : Nat) (r : NodeRec) (n : NodeRun) (fr : Frame) : State :=
  match n.state with
  | .expected => s.modCounters fun c => { c with unidentified := gain c.unidentified }
  | .silent =>
    if r.autoReturn then s.cycleTaken i r n (n.toWarming s.now (s.active.profileOf r)) fr else s
  | .barred => s
  | .warming => s.cycleTaken i r n n fr
  | .live => s.cycleTaken i r n n fr

/-! ## Alerts (R35, R36) -/

/-- The motion holds after a MOTION alert: each named phase's hold is set (R36). -/
def NodeRun.motion (n : NodeRun) (now : Time) (p : ChannelProfile) (mask : Byte) : NodeRun :=
  { n with
    motionHold := .of fun ph => if phaseBit mask ph then some (after now p.motionHold) else n.motionHold.get ph }

/-- An ALERT frame that reaches a node (R35). -/
def State.takeAlert (s : State) (i : Nat) (r : NodeRec) (n : NodeRun) (fr : Frame) : State :=
  if byteAt fr.payload 0 = 1 then
    if n.state = .expected ∨ n.state = .barred then s
    else
      let t := s.setNode i (n.motion s.now (s.active.profileOf r) (byteAt fr.payload 1))
      if anyPhase (byteAt fr.payload 1) then t.raiseTrigger r.feeder .motion (some i) else t
  else s.modCounters fun c => { c with unknownAlerts := gain c.unknownAlerts }

/-- An IDENT frame that reaches a node (R22). -/
def State.takeIdent (s : State) (i : Nat) (r : NodeRec) (n : NodeRun) (fr : Frame) : State :=
  s.changeNode i r.feeder n
    (n.ident s.now r (s.active.profileOf r) (byteAt fr.payload 0) (byteAt fr.payload 1) (byteAt fr.payload 2))

/-- The node tracker takes its copy of a CYCLE, ALERT or IDENT frame (R20): unknown addresses are counted. -/
def State.trackFrame (s : State) (fr : Frame) : State :=
  match (s.active.find? fr.address).bind fun i =>
      (s.active.node? i).bind fun r => (s.node? i).map fun n => (i, r, n) with
  | none => s.modCounters fun c => { c with unknownSource := gain c.unknownSource }
  | some (i, r, n) =>
    if fr.kind = kindCycle then s.takeCycle i r n fr
    else if fr.kind = kindAlert then s.takeAlert i r n fr
    else s.takeIdent i r n fr

/-! ## Expiries -/

/-- The silence expiry of a node in WARMING or LIVE (R28, R30, R34): SILENT and counted, perhaps barred; a node that
was LIVE gives its loss notices from the records as they stand, and its feeder is recomputed once. -/
def State.fallSilent (s : State) (i : Nat) (r : NodeRec) (n : NodeRun) : State :=
  let m := n.toSilent
  let after_ := m.checked r.autoBar
    (reachesThreshold (s.active.profileOf r).thresholds.silences m.health.silences)
  if n.isLive then ((s.setNode i after_).lossNotices r.feeder i).recompute r.feeder else s.setNode i after_

/-- SILENCE_EXPIRY (R28): taken when the deadline of a node in WARMING or LIVE is reached. A proof its recomputation
abandons completes at once (R179). -/
def execSilenceExpiry (i : Nat) (s : State) : Host.Outcome State Fault Refusal :=
  .next <|
    match s.active.node? i, s.node? i with
    | some r, some n =>
      if due s.now n.silenceDeadline ∧ (n.state = .warming ∨ n.state = .live) then (s.fallSilent i r n).flushHeld
      else s
    | _, _ => s

/-- MOTION_HOLD_EXPIRY (R37): a reached hold becomes none. -/
def execMotionHoldExpiry (i : Nat) (ph : Phase) (s : State) : Host.Outcome State Fault Refusal :=
  .next <|
    match s.node? i with
    | none => s
    | some n =>
      if due s.now (n.motionHold.get ph) then s.setNode i { n with motionHold := n.motionHold.set ph none } else s

end Sys2Proof.Machine
end

