-- ==== Sys2Proof/Machine/Evaluation.lean ====
section
/-!
DEFINITION. The feeder evaluation: the phase tests (R66 to R76), scores and evidence (R77, R78), the shadow
evaluation of a dry proof (R176), the feeder expiry (R61), and the expiries of loss records and zone timers
(R75, R88, R95, R98).
-/

namespace Sys2Proof.Machine

/-! ## Inputs (R64) -/

/-- What the evaluator reads of one unit: its voltage sensing, its profile's Imin and its channels (R64). -/
structure UnitView where
  sensing : Bool
  iMin : Nat
  channels : PerPhase Channel
deriving DecidableEq, Repr

/-- The inputs of a zone's evaluation (R64): the upstream unit, the boundary units in order, whether MOTION is
held on each phase in the covered set, and whether the loss record runs. -/
structure ZoneInputs where
  up : UnitView
  down : List UnitView
  motion : PerPhase Bool
  lossRunning : Bool
deriving DecidableEq, Repr

/-- The unit at a node index as the evaluator reads it. -/
def State.unit (s : State) (i : Nat) : UnitView :=
  match s.active.node? i, s.node? i with
  | some r, some n => ⟨r.voltageSensing, (s.active.profileOf r).iMin, n.channels⟩
  | _, _ => ⟨false, 0, .all .fresh⟩

/-- A motion hold of a unit is held on a phase: its deadline runs and is not yet expired (R37). -/
def State.motionHeld (s : State) (i : Nat) (ph : Phase) : Bool := (s.node? i).any fun n => (n.motionHold.get ph).isSome

/-- The inputs of a zone as the state stands; `u` is its upstream source. -/
def State.inputs (s : State) (x : Zone) (u : Nat) : ZoneInputs where
  up := s.unit u
  down := x.topo.list.map fun b => s.unit b.source
  motion := .of fun ph => (coveredSet s.active x.topo).any fun i => s.motionHeld i ph
  lossRunning := x.eval.lossRecord.isSome

/-! ## The phase tests -/

/-- The fast current of a unit in 0.1 A (R55). -/
def UnitView.current (u : UnitView) (ph : Phase) : Nat := (u.channels.get ph).iFast16 / 16

/-- The drop ratio of a unit, with its own Imin (R54). -/
def UnitView.drop (u : UnitView) (ph : Phase) : Nat := dropRatio u.iMin (u.channels.get ph)

/-- The upstream is live on a phase (R66). -/
def upstreamLive (p : ZoneProfile) (u : UnitView) (ph : Phase) : Bool :=
  if u.sensing then decide (p.vLive ≤ (u.channels.get ph).vLast) else decide (u.iMin ≤ u.current ph)

/-- The sum of the downstream currents of a phase (R67). -/
def downstreamCurrent (down : List UnitView) (ph : Phase) : Nat := (down.map fun d => d.current ph).sum

/-- The residual of a phase (R67). -/
def residualOf (ins : ZoneInputs) (ph : Phase) : Int :=
  clamp (-32768) 32767 ((ins.up.current ph : Int) - (downstreamCurrent ins.down ph : Int))

/-- The baseline of a phase after its residual is formed (R68): the first case that applies. -/
def baselineStep (p : ZoneProfile) (was : ZoneState) (live reseed : Bool) (residual baseline : Int) : Int :=
  if !live then baseline
  else if reseed then residual
  else if was = .normal then baseline + truncDiv (residual - baseline) (2 ^ p.kb)
  else baseline

/-- The form of the OPEN test (R69). -/
inductive OpenForm where
  | upstreamDrop
  | voltage
  | boundaryDrop
deriving DecidableEq, Repr

/-- The form chosen once per evaluation (R69). -/
def openForm (ins : ZoneInputs) : OpenForm :=
  if ins.down = [] then .upstreamDrop
  else if ins.up.sensing && ins.down.any (·.sensing) then .voltage
  else .boundaryDrop

/-- The voltage ratio of a boundary unit (R70). -/
def voltageRatio (up down : UnitView) (ph : Phase) : Nat :=
  min 1000 (1000 * (down.channels.get ph).vLast / (up.channels.get ph).vLast)

/-- The smallest voltage ratio of the boundary units that have voltage sensing (R70). -/
def smallestRatio (ins : ZoneInputs) (ph : Phase) : Nat :=
  ((ins.down.filter (·.sensing)).map fun d => voltageRatio ins.up d ph).foldl min 1000

/-- The boundary unit whose drop ratio on a phase is highest, the first of several (R71). -/
def highestDrop (ph : Phase) : List UnitView → Option UnitView
  | [] => none
  | d :: ds =>
    match highestDrop ph ds with
    | none => some d
    | some e => if d.drop ph < e.drop ph then some e else some d

/-- The other two phases of a phase. -/
def otherPhases : Phase → List Phase
  | .a => [.b, .c]
  | .b => [.a, .c]
  | .c => [.a, .b]

/-- A single-phase drop: D at or above D_end on the phase, and below a quarter of it on each other phase (R71). -/
def singleDrop (p : ZoneProfile) (u : UnitView) (ph : Phase) : Bool :=
  decide (p.dEnd ≤ u.drop ph) && (otherPhases ph).all fun q => decide (u.drop q < p.dEnd / 4)

/-- The OPEN test of a phase whose upstream is live (R69 to R71). -/
def openFound (p : ZoneProfile) (ins : ZoneInputs) (ph : Phase) : Bool :=
  match openForm ins with
  | .upstreamDrop => singleDrop p ins.up ph
  | .voltage => decide (smallestRatio ins ph ≤ p.rhoOpen)
  | .boundaryDrop => (highestDrop ph ins.down).any fun d => singleDrop p d ph

/-- The ARC test of a phase whose upstream is live (R73). -/
def arcFound (ins : ZoneInputs) (ph : Phase) : Bool :=
  (ins.up.channels.get ph).arcFlag && ins.down.all fun d => !(d.channels.get ph).arcFlag

/-- The LOST test of a phase whose upstream is live (R76). -/
def lostFound (p : ZoneProfile) (ins : ZoneInputs) (ph : Phase) : Bool :=
  ins.lossRunning && decide (p.dLost ≤ ins.up.drop ph)

/-- The indications found on a phase (R66, R69 to R76). -/
def indicationsOf (p : ZoneProfile) (ins : ZoneInputs) (ph : Phase) (live : Bool) (excess : Int) : Indications :=
  if live then
    { open_ := openFound p ins ph
      leak := decide ((p.leakThreshold : Int) ≤ excess)
      arc := arcFound ins ph
      motion := ins.motion.get ph
      lost := lostFound p ins ph }
  else .none

/-- The sum of the weights of a set of indications (R77). -/
def scoreOf (w : Weights) (x : Indications) : Nat :=
  (if x.open_ then w.open_ else 0) + (if x.leak then w.leak else 0) + (if x.arc then w.arc else 0)
    + (if x.motion then w.motion else 0) + (if x.lost then w.lost else 0)

/-- The evaluation of one phase (R66 to R77). -/
def evalPhase (p : ZoneProfile) (was : ZoneState) (ins : ZoneInputs) (ph : Phase) (x : PhaseEval) : PhaseEval :=
  let live := upstreamLive p ins.up ph
  let residual := residualOf ins ph
  let baseline := baselineStep p was live x.reseed residual x.baseline
  let found := indicationsOf p ins ph live (residual - baseline)
  { baseline := baseline
    reseed := x.reseed && !live
    residual := residual
    excess := residual - baseline
    indications := found
    score := scoreOf p.weights found }

/-! ## Scores and evidence -/

/-- The largest of the three phase scores (R77). -/
def zoneScore (t : PerPhase PhaseEval) : Nat := max t.a.score (max t.b.score t.c.score)

/-- The faulted phase: the first whose score is the zone score, none when that is 0 (R77). -/
def faultedPhase (t : PerPhase PhaseEval) : Option Phase :=
  if zoneScore t = 0 then none else phases.find? fun ph => decide ((t.get ph).score = zoneScore t)

/-- The evidence after an evaluation (R78). -/
def evidenceStep (p : ZoneProfile) (evidence score : Nat) : Nat :=
  if score = 0 then evidence - p.decay else min 255 (evidence + score)

/-- The evaluation of a zone on its evaluation record (R66 to R78). -/
def Evaluation.evaluate (e : Evaluation) (p : ZoneProfile) (was : ZoneState) (now : Time) (ins : ZoneInputs) : Evaluation :=
  let t : PerPhase PhaseEval := .of fun ph => evalPhase p was ins ph (e.perPhase.get ph)
  { e with
    evidence := evidenceStep p e.evidence (zoneScore t)
    perPhase := t
    score := zoneScore t
    faulted := faultedPhase t
    lastEvaluation := some now }

/-- A zone is evaluated at its feeder's expiry: NORMAL or SUSPECT, and EVALUABLE (R64). -/
def Zone.selected (x : Zone) : Bool :=
  decide ((x.run.state = .normal ∨ x.run.state = .suspect) ∧ x.topo.evaluability = .evaluable)

/-- A zone of the feeder is evaluated, where R64 selects it, and its outcome taken (R79). -/
def State.evaluateZone (s : State) (z : Nat) : State :=
  match s.zone? z with
  | none => s
  | some x =>
    match x.topo.source with
    | none => s
    | some u =>
      if x.selected then
        let e := x.eval.evaluate (s.profile z) x.run.state s.now (s.inputs x u)
        (s.modZone z fun y => { y with eval := e }).takeDecision z
          (decideOutcome (s.profile z) (s.feeders.get (s.feederOf z)).effective x.run.state e.evidence)
      else s

/-! ## The shadow evaluation (R176) -/

/-- What a decision would make of a zone: the resulting state and verdict kind (R176). -/
def shadowResult (p : ZoneProfile) (r : ZoneRecord) : Decision → ZoneState × Option VerdictKind
  | .stay => (r.state, none)
  | .suspect => (.suspect, none)
  | .suspectWouldTrip => (.suspect, some .wouldTrip)
  | .wouldTrip => (.suspect, if r.wouldTrip then none else some .wouldTrip)
  | .confirm => (confirmState p r.trips, some (confirmKind p r.trips))
  | .normal => (.normal, none)

/-- The shadow score: the forced indications join the faulted phase of the real result, phase A when that is none,
and the scores are summed again (R176). -/
def shadowScore (p : ZoneProfile) (forced : Indications) (e : Evaluation) : Nat :=
  let ph := e.faulted.getD .a
  let t := e.perPhase.set ph
    { e.perPhase.get ph with score := scoreOf p.weights ((e.perPhase.get ph).indications.union forced) }
  zoneScore t

/-- The four data bytes of a dry proof's completion (R176): shadow score, shadow evidence, resulting state and
resulting verdict kind. -/
def shadowData (p : ZoneProfile) (mode : Mode) (forced : Indications) (x : Zone) (now : Time) (ins : ZoneInputs) :
    List Byte :=
  let score := shadowScore p forced (x.eval.evaluate p x.run.state now ins)
  let evidence := evidenceStep p x.eval.evidence score
  let result := shadowResult p x.run (decideOutcome p mode x.run.state evidence)
  [byteOf score, byteOf evidence, result.1.code, (result.2.map VerdictKind.code).getD 0]

/-- The zone of feeder `f` for which a dry proof is pending, with its records and upstream source (R61 step 2). -/
def State.pendingProof (s : State) (f : Fin 4) : Option (Nat × Zone × Nat) :=
  if s.proof.state = .zonePending then
    s.proof.target.bind fun z =>
      if s.feederOf z = f then (s.zone? z).bind fun x => x.topo.source.map fun u => (z, x, u) else none
  else none

/-- Step 2 of R61: a pending dry proof of a zone of the feeder is evaluated on copies and completes; its completion
reply is queued at once or held (R176, R179). -/
def State.shadowEvaluation (s : State) (f : Fin 4) : State :=
  match s.pendingProof f with
  | none => s
  | some (z, x, u) =>
    (s.completeProof .done (shadowData (s.profile z) (s.feeders.get f).effective s.proof.forced x s.now
      (s.inputs x u))).flushHeld

/-! ## The feeder expiry (R61) -/

/-- The trip count lowered to a lockout limit (R84). -/
def ZoneRecord.capTrips (r : ZoneRecord) (limit : Nat) : ZoneRecord := { r with trips := min r.trips limit }

/-- Step 1 of R61: the requested mode is latched (R62), and each trip count of the feeder's zones is lowered to the
lockout limit of the active profile (R84). -/
def State.latchMode (s : State) (f : Fin 4) : State :=
  let x := s.feeders.get f
  let t := { s with feeders := s.feeders.set f { x with effective := x.requested } }
  (t.active.zonesOf f).foldl (fun u z => u.modRun z fun r => r.capTrips (t.profile z).lockoutLimit) t

/-- Step 3 of R61: the deadline is set from now, with the feeder's period of the ACTIVE header. -/
def State.rearm (s : State) (f : Fin 4) : State :=
  let x := s.feeders.get f
  { s with feeders := s.feeders.set f { x with deadline := some (after s.now (s.active.header.periods.get f)) } }

/-- Step 4 of R61: the feeder's zones in ascending order. -/
def State.evaluateFeeder (s : State) (f : Fin 4) : State := (s.active.zonesOf f).foldl State.evaluateZone s

/-- The four steps of a feeder expiry (R61), and a completion the event has made, queued at once (R179). -/
def State.feederExpiry (s : State) (f : Fin 4) : State :=
  ((((s.latchMode f).shadowEvaluation f).rearm f).evaluateFeeder f).flushHeld

/-- FEEDER_EVALUATION_EXPIRY (R61): taken when the feeder's evaluation deadline is reached. -/
def execFeederEvaluationExpiry (f : Fin 4) (s : State) : Host.Outcome State Fault Refusal :=
  .next (if due s.now (s.feeders.get f).deadline then s.feederExpiry f else s)

/-! ## Expiries of the zone's deadlines -/

/-- LOSS_RECORD_EXPIRY (R75): a reached loss record becomes none. -/
def execLossRecordExpiry (z : Nat) (s : State) : Host.Outcome State Fault Refusal :=
  .next <|
    if (s.zone? z).any fun x => due s.now x.eval.lossRecord then
      s.modZone z fun x => { x with eval := { x.eval with lossRecord := none } }
    else s

/-- STEP_TIMER_EXPIRY (R88): a reached step deadline of a SUSPECT zone becomes none, and ADVISORY is raised. -/
def execStepTimerExpiry (z : Nat) (s : State) : Host.Outcome State Fault Refusal :=
  .next <|
    if (s.zone? z).any fun x => due s.now x.run.stepDeadline && decide (x.run.state = .suspect) then
      (s.modRun z fun r => { r with stepDeadline := none }).raise z .advisory
    else s

/-- TRIP_MEMORY_EXPIRY (R95): a reached trip memory deadline becomes none, and the trip count 0. -/
def execTripMemoryExpiry (z : Nat) (s : State) : Host.Outcome State Fault Refusal :=
  .next <|
    if (s.zone? z).any fun x => due s.now x.run.memoryDeadline then
      s.modRun z fun r => { r with trips := 0, memoryDeadline := none }
    else s

/-- GRACE_EXPIRY (R98): a reached grace deadline of a DEGRADED zone trips it BLIND. -/
def execGraceExpiry (z : Nat) (s : State) : Host.Outcome State Fault Refusal :=
  .next <|
    if (s.zone? z).any fun x => due s.now x.run.graceDeadline && decide (x.run.state = .degraded) then s.blindTrip z
    else s

end Sys2Proof.Machine
end

