-- ==== Sys2Proof/Machine/Management.lean ====
section
/-!
DEFINITION. The management unit's other commands: identification and readings (R169 to R171), commands on runtime
state (R172), capture commands (R146 to R148), RESTART ENGINE (R173) and BAD-COMMAND (R166).
-/

namespace Sys2Proof.Machine

/-! ## Identification and status (R169) -/

/-- The data of IDENTIFY (R169). -/
def State.identification (s : State) : List Byte :=
  be16 Config.partCode ++ [byteOf Config.revision, 48, 4, 16, 8, 4, 4, s.strap.setWidth 8, s.address]

/-- IDENTIFY (R169). -/
def execIdentify (tag : Byte) (params : List Byte) (s : State) : Host.Outcome State Fault Refusal :=
  .next <| s.takeCommand codeIdentify tag fun s => noParams s params (done s s.identification)

/-- The six zone states in the order of their codes. -/
def zoneStates : List ZoneState := [.normal, .suspect, .tripped, .lockout, .absorbed, .degraded]

/-- How many zones of a feeder stand in a state (R105). -/
def State.countZones (s : State) (f : Fin 4) (st : ZoneState) : Nat :=
  ((s.active.zonesOf f).filter fun z => (s.zone? z).any fun x => decide (x.run.state = st)).length

/-- The part of READ STATUS for one feeder (R82, R105). -/
def State.feederStatus (s : State) (f : Fin 4) : List Byte :=
  (s.feeders.get f).requested.code :: (s.feeders.get f).effective.code
    :: zoneStates.map fun st => byteOf (s.countZones f st)

/-- The part of READ STATUS for one line (R119). -/
def State.lineStatus (s : State) (l : Fin 4) : List Byte :=
  [(s.active.header.policies.get l).code, flagByte (s.demanded l), flagByte (s.pulseOn l), flagByte (s.lines.get l)]

/-- The data of READ STATUS (R121, R169). -/
def State.status (s : State) : List Byte :=
  [s.engine.code, s.presence.code] ++ four.flatMap s.feederStatus ++ four.flatMap s.lineStatus
    ++ [s.proof.state.code, indexByte s.proof.target] ++ s.slots.toList.map (fun x => x.state.code) ++ be16 s.missed

/-- READ STATUS (R169). -/
def execReadStatus (tag : Byte) (params : List Byte) (s : State) : Host.Outcome State Fault Refusal :=
  .next <| s.takeCommand codeReadStatus tag fun s => noParams s params (done s s.status)

/-! ## Readings of one target (R170) -/

/-- A channel record in READ NODE, with its drop ratio (R59). -/
def Channel.encode (c : Channel) (iMin : Nat) : List Byte :=
  be16 c.iLast ++ be16 c.vLast ++ be16 c.hLast ++ be16 c.hPrev ++ be32 c.iFast16 ++ be32 c.iSlow16 ++ be16 c.score
    ++ [flagByte c.arcFlag, byteOf c.arcRun, flagByte c.saturated, flagByte c.seeded] ++ be16 (dropRatio iMin c)

/-- The data of READ NODE (R41, R59, R121). -/
def nodeData (now : Time) (i : Nat) (r : NodeRec) (p : ChannelProfile) (n : NodeRun) : List Byte :=
  [byteOf i, r.address, n.state.code, barReasonCode n.barReason] ++ wideByte n.unitClass ++ wideByte n.seqExpect
    ++ be16 n.warmUp ++ be16 p.warmUpCount ++ [flagByte n.exceeded] ++ be32 (remaining now n.silenceDeadline)
    ++ n.motionHold.toList.flatMap (fun d => be32 (remaining now d))
    ++ n.channels.toList.flatMap fun c => c.encode p.iMin

/-- READ NODE (R170). -/
def execReadNode (tag : Byte) (params : List Byte) (s : State) : Host.Outcome State Fault Refusal :=
  .next <| s.takeCommand codeReadNode tag fun s =>
    onNode s params fun i r n => done s (nodeData s.now i r (s.active.profileOf r) n)

/-- The four numbers of a health record. -/
def Health.toList (h : Health) : List Nat := [h.gaps, h.stales, h.silences, h.saturations]

/-- READ HEALTH (R170). -/
def execReadHealth (tag : Byte) (params : List Byte) (s : State) : Host.Outcome State Fault Refusal :=
  .next <| s.takeCommand codeReadHealth tag fun s =>
    onNode s params fun i r n =>
      done s (byteOf i :: n.health.toList.flatMap be16 ++ (s.active.profileOf r).thresholds.toList.flatMap be16
        ++ [flagByte n.exceeded])

/-- A phase of the evaluation record in READ ZONE (R82). -/
def PhaseEval.encode (x : PhaseEval) : List Byte :=
  be16s x.baseline ++ [flagByte x.reseed] ++ be16s x.residual ++ be32s x.excess ++ [x.indications.mask, byteOf x.score]

/-- The topology record in READ ZONE (R18). -/
def Topology.encode (x : Topology) : List Byte :=
  [byteOf x.position, indexByte x.source, flagByte x.twinInUse, x.evaluability.code, indexByte x.host, byteOf x.count,
   byteOf x.list.length]
    ++ x.list.flatMap (fun b => [byteOf b.position, byteOf b.source, flagByte b.twinInUse])
    ++ byteOf x.absorbed.length :: x.absorbed.map byteOf

/-- The zone state record in READ ZONE (R105). -/
def ZoneRecord.encode (r : ZoneRecord) (now : Time) (p : ZoneProfile) : List Byte :=
  [r.state.code, reasonCode r.reason, byteOf r.trips, byteOf p.lockoutLimit, flagByte r.wouldTrip]
    ++ be32 (remaining now r.stepDeadline) ++ be32 (remaining now r.graceDeadline)
    ++ be32 (remaining now r.memoryDeadline)

/-- The evaluation record in READ ZONE (R82). -/
def Evaluation.encode (e : Evaluation) (now : Time) : List Byte :=
  [byteOf e.evidence, byteOf e.score, faultedCode e.faulted] ++ be32 (remaining now e.lossRecord)
    ++ [flagByte e.lastEvaluation.isSome] ++ be32 ((e.lastEvaluation.map BitVec.toNat).getD 0)
    ++ e.perPhase.toList.flatMap PhaseEval.encode

/-- READ ZONE (R170): the zone state record, the evaluation record and the topology record. -/
def execReadZone (tag : Byte) (params : List Byte) (s : State) : Host.Outcome State Fault Refusal :=
  .next <| s.takeCommand codeReadZone tag fun s =>
    onZone s params fun z _ x =>
      done s (byteOf z :: x.run.encode s.now (s.profile z) ++ [byteOf (s.profileNumber z)] ++ x.eval.encode s.now
        ++ x.topo.encode)

/-! ## Counters (R171) -/

/-- READ COUNTERS (R171). -/
def execReadCounters (tag : Byte) (params : List Byte) (s : State) : Host.Outcome State Fault Refusal :=
  .next <| s.takeCommand codeReadCounters tag fun s =>
    noParams s params (done s (s.counters.toList.flatMap be32))

/-- CLEAR COUNTERS (R171). -/
def execClearCounters (tag : Byte) (params : List Byte) (s : State) : Host.Outcome State Fault Refusal :=
  .next <| s.takeCommand codeClearCounters tag fun s =>
    noParams s params (done (s.modCounters fun _ => .zero) [])

/-! ## Commands on runtime state (R172) -/

/-- A record with its attributes zeroed and its flag cleared (R31). -/
def NodeRun.clearHealth (n : NodeRun) : NodeRun := { n with health := ⟨0, 0, 0, 0⟩, exceeded := false }

/-- CLEAR HEALTH NODE (R31). -/
def execClearHealthNode (tag : Byte) (params : List Byte) (s : State) : Host.Outcome State Fault Refusal :=
  .next <| s.takeCommand codeClearHealthNode tag fun s =>
    onNode s params fun i _ n => done (s.setNode i n.clearHealth) []

/-- The parameters of SET MODE: feeder 0..3 and mode 0..2 (R166). -/
def modeParams (params : List Byte) : Option (Fin 4 × Mode) :=
  match params with
  | [f, m] => (finOf 4 f).bind fun f' => (modeOf m).map fun m' => (f', m')
  | _ => none

/-- The requested mode of a feeder is written (R62). -/
def State.requestMode (s : State) (f : Fin 4) (m : Mode) : State :=
  { s with feeders := s.feeders.set f { s.feeders.get f with requested := m } }

/-- SET MODE (R62). -/
def execSetMode (tag : Byte) (params : List Byte) (s : State) : Host.Outcome State Fault Refusal :=
  .next <| s.takeCommand codeSetMode tag fun s =>
    match modeParams params with
    | none => refuse s .badParam
    | some (f, m) => done (s.requestMode f m) []

/-- RELEASE ZONE (R92, R94). -/
def execReleaseZone (tag : Byte) (params : List Byte) (s : State) : Host.Outcome State Fault Refusal :=
  .next <| s.takeCommand codeReleaseZone tag fun s =>
    onZone s params fun z _ x =>
      if x.run.state = .tripped then done (s.release z x.run.trips (memoryDeadline s.now (s.profile z))) []
      else refuse s .wrongState

/-- CLEAR LOCKOUT (R93, R94). -/
def execClearLockout (tag : Byte) (params : List Byte) (s : State) : Host.Outcome State Fault Refusal :=
  .next <| s.takeCommand codeClearLockout tag fun s =>
    onZone s params fun z _ x => if x.isTripped then done (s.release z 0 none) [] else refuse s .wrongState

/-- BAR NODE (R32). -/
def execBarNode (tag : Byte) (params : List Byte) (s : State) : Host.Outcome State Fault Refusal :=
  .next <| s.takeCommand codeBarNode tag fun s =>
    onNode s params fun i r n =>
      if n.state = .barred then refuse s .wrongState
      else done (s.changeNode i r.feeder n (n.toBarred .command)) []

/-- ADMIT NODE (R33). -/
def execAdmitNode (tag : Byte) (params : List Byte) (s : State) : Host.Outcome State Fault Refusal :=
  .next <| s.takeCommand codeAdmitNode tag fun s =>
    onNode s params fun i r n =>
      if n.state = .barred ∨ (n.state = .silent ∧ !r.autoReturn) then done (s.setNode i n.admitted) []
      else refuse s .wrongState

/-! ## Capture (R146 to R148) -/

/-- CAPTURE NOW (R148). -/
def execCaptureNow (tag : Byte) (params : List Byte) (s : State) : Host.Outcome State Fault Refusal :=
  .next <| s.takeCommand codeCaptureNow tag fun s =>
    whenRunning s <|
      match params with
      | [f] =>
        match finOf 4 f with
        | none => refuse s .badParam
        | some f' =>
          if s.active.feederUsed f' then done (s.raiseTrigger f' .captureNow none) [] else refuse s .wrongState
      | _ => refuse s .badParam

/-- The parameters of READ CAPTURE: slot 0..3, start index, count 0..7 (R146). -/
def readCaptureParams (params : List Byte) : Option (Fin 4 × Nat × Nat) :=
  match params with
  | [i, hi, lo, count] => if count.toNat < 8 then (finOf 4 i).map fun i' => (i', u16 hi lo, count.toNat) else none
  | _ => none

/-- READ CAPTURE (R146). -/
def execReadCapture (tag : Byte) (params : List Byte) (s : State) : Host.Outcome State Fault Refusal :=
  .next <| s.takeCommand codeReadCapture tag fun s =>
    match readCaptureParams params with
    | none => refuse s .badParam
    | some (i, start, count) =>
      done s ((s.slots.get i).header i start count
        ++ ((s.slots.get i).window start count).flatMap CaptureRecord.encode)

/-- The parameters of FREE CAPTURE: slot 0..3, abort 0 or 1 (R147). -/
def freeCaptureParams (params : List Byte) : Option (Fin 4 × Bool) :=
  match params with
  | [i, a] => (finOf 4 i).bind fun i' => (flagOf a).map fun a' => (i', a')
  | _ => none

/-- A slot in this state may be freed: FROZEN, or FILLING with abort (R147). -/
def SlotState.freeable (x : SlotState) (abort : Bool) : Bool :=
  match x with
  | .frozen => true
  | .filling => abort
  | .free => false

/-- FREE CAPTURE (R147). -/
def execFreeCapture (tag : Byte) (params : List Byte) (s : State) : Host.Outcome State Fault Refusal :=
  .next <| s.takeCommand codeFreeCapture tag fun s =>
    match freeCaptureParams params with
    | none => refuse s .badParam
    | some (i, abort) =>
      if (s.slots.get i).state.freeable abort then done { s with slots := s.slots.set i .empty } []
      else refuse s .wrongState

/-! ## RESTART ENGINE (R173) -/

/-- Steps 1 to 5 of R173: the proof, queues, counters, nodes with their channels, zones, feeders and capture. -/
def State.clearRuntime (s : State) : State :=
  { s with
    proof := .idle
    forwardFifo := []
    sensorQueue := []
    verdicts := []
    replies := []
    counters := .zero
    nodes := s.active.nodes.map fun r => r.map fun _ => .fresh
    zones := s.active.indices.map fun z => (s.active.position? z).map fun _ => .fresh z
    feeders := .of fun f =>
      ⟨if s.engine = .running then some (after s.now (s.active.header.periods.get f)) else none, .standard, .standard⟩
    rings := .all []
    slots := .all .empty
    missed := 0 }

/-- Steps 1 to 7 of R173: the cleared runtime, every used feeder recomputed, the lines recomputed. -/
def State.restart (s : State) : State := s.clearRuntime.recomputeAll.recomputeLines

/-- A zone of the ACTIVE copy stands in TRIPPED or LOCKOUT (R173). -/
def State.anyTripped (s : State) : Bool := s.active.indices.any fun z => (s.zone? z).any Zone.isTripped

/-- The force byte of RESTART ENGINE, 0 or 1 (R173). -/
def forceParam (params : List Byte) : Option Bool :=
  match params with
  | [b] => flagOf b
  | _ => none

/-- RESTART ENGINE (R173): its REPLY, then the STARTED notice with cause RESTART (R168). -/
def execRestartEngine (tag : Byte) (params : List Byte) (s : State) : Host.Outcome State Fault Refusal :=
  .next <| s.takeCommand codeRestartEngine tag fun s =>
    match forceParam params with
    | none => refuse s .badParam
    | some force =>
      if !force && s.anyTripped then refuse s .refusedTripped
      else ⟨s.restart, .done, [], [startedNotice 2]⟩

/-! ## BAD-COMMAND (R166) -/

/-- BAD_COMMAND (R166): a code that the command table does not list is answered BAD-COMMAND. A listed code is no such
event. -/
def execBadCommand (code tag : Byte) (_params : List Byte) (s : State) : Host.Outcome State Fault Refusal :=
  .next <| if code ∈ commandCodes then s else s.takeCommand code tag fun s => refuse s .badCommand

end Sys2Proof.Machine
end

