-- ==== Sys2Proof/Machine/Proofs.lean ====
section
/-!
DEFINITION. The proof unit: PROVE ZONE, PROVE LINE, CANCEL PROOF and the pulse expiry (R175 to R179).
-/

namespace Sys2Proof.Machine

/-- A proof is in flight in every proof state except none (R175). -/
def State.proofInFlight (s : State) : Bool := decide (s.proof.state ≠ .none)

/-- The record of an accepted dry proof (R176). -/
def zoneProof (z : Nat) (forced : Indications) (tag : Byte) : Proof :=
  ⟨.zonePending, some .proveZone, some z, some tag, forced, none, false, none⟩

/-- The record of an accepted line proof (R178). -/
def lineProof (l : Fin 4) (deadline : Time) (tag : Byte) : Proof :=
  ⟨.pulseRunning, some .proveLine, some l.val, some tag, .none, some deadline, false, none⟩

/-- The target check of PROVE ZONE: a HEAD or NODE whose zone is NORMAL or SUSPECT (R166, R176). -/
def State.provable (s : State) (z : Nat) : Bool :=
  (s.zoneAt z).any fun rx => decide (rx.2.run.state = .normal ∨ rx.2.run.state = .suspect)

/-- PROVE ZONE (R175, R176). -/
def execProveZone (tag : Byte) (params : List Byte) (s : State) : Host.Outcome State Fault Refusal :=
  .next <| s.takeCommand codeProveZone tag fun s =>
    whenRunning s <|
      match params with
      | [z, mask] =>
        if z.toNat < Config.nodeCount ∧ mask.toNat < 32 then
          if s.proofInFlight then refuse s .busy
          else if s.provable z.toNat then
            ⟨{ s with proof := zoneProof z.toNat (.ofMask mask) tag }, .accepted, [], []⟩
          else refuse s .wrongState
        else refuse s .badParam
      | _ => refuse s .badParam

/-- The parameters of PROVE LINE: the line, 0..3, and the pulse, 10..2000 ms (R175). -/
def lineParams (params : List Byte) : Option (Fin 4 × Nat) :=
  match params with
  | [l, hi, lo] => if within 10 2000 (u16 hi lo) then (finOf 4 l).map fun i => (i, u16 hi lo) else none
  | _ => none

/-- PROVE LINE (R175, R178). -/
def execProveLine (tag : Byte) (params : List Byte) (s : State) : Host.Outcome State Fault Refusal :=
  .next <| s.takeCommand codeProveLine tag fun s =>
    match lineParams params with
    | none => refuse s .badParam
    | some (l, pulse) =>
      if s.proofInFlight then refuse s .busy
      else if s.lines.get l then refuse s .wrongState
      else ⟨State.recomputeLines { s with proof := lineProof l (after s.now pulse) tag }, .accepted, [], []⟩

/-- CANCEL PROOF (R175, R179). While a completion waits the reply queue is full, so no command is executed then; the
arm for it changes nothing (DESIGN CHOICE, log entry 10). -/
def execCancelProof (tag : Byte) (params : List Byte) (s : State) : Host.Outcome State Fault Refusal :=
  .next <| s.takeCommand codeCancelProof tag fun s =>
    noParams s params <|
      match s.proof.state with
      | .none => refuse s .wrongState
      | .zonePending => done (s.completeProof .cancelled []) []
      | .pulseRunning => done (s.completeProof .cancelled []).recomputeLines []
      | .completionWaiting => done s []

/-- PULSE_EXPIRY (R178): the lines are recomputed without the pulse term, and the completion is made. -/
def execPulseExpiry (s : State) : Host.Outcome State Fault Refusal :=
  .next <|
    if due s.now s.proof.pulseDeadline ∧ s.proof.state = .pulseRunning then
      ((s.completeProof (if s.proof.takenOver then .takenOver else .done) []).recomputeLines).flushHeld
    else s

end Sys2Proof.Machine
end

