-- ==== Sys2Proof/Machine/Stream.lean ====
section
/-!
DEFINITION. The feeder stream: receiving frames (R123 to R126), controller presence (R132), the two transmitters
(R129 to R131), and the hard reset (R136).
-/

namespace Sys2Proof.Machine

/-- HARD_RESET (R136): the state right after a hard reset, with the strap sampled (R135). -/
def execHardReset (strap : BitVec 2) (s : State) : Host.Outcome State Fault Refusal :=
  .next { State.reset with strap := strap, pending := s.pending }

/-! ## Receiving (R123 to R125) -/

/-- The receiver at the end of a stretch of hunting, none where bytes follow the pair (they belong to the next event). -/
def HuntEnd.receiver? : HuntEnd → Option Receiver
  | .still candidate skipped => some (.hunting candidate skipped)
  | .found _ [] => some (.collecting [])
  | .found _ (_ :: _) => none

/-- The hunting ended at a pair after skipped bytes: one sync slip (R123). -/
def HuntEnd.slipped : HuntEnd → Bool
  | .still _ _ => false
  | .found skipped _ => skipped

/-- The port's sync slip counter gains 1 where the episode slipped (R123). -/
def State.countSlip (s : State) (p : Port) (slipped : Bool) : State :=
  if slipped then s.modPort p PortCounters.gainSlips else s

/-- SYNC_PAIR_FOUND (R123): a hunting receiver examines the bytes, up to the sync pair. Where they hold no pair the
receiver goes on hunting; where bytes follow the pair, or the receiver is not hunting, this is no such event. -/
def execSyncPairFound (p : Port) (bytes : List Byte) (s : State) : Host.Outcome State Fault Refusal :=
  .next <|
    match s.rx p with
    | .collecting _ => s
    | .hunting candidate skipped =>
      match (hunt candidate skipped bytes).receiver? with
      | none => s
      | some r => (s.setRx p r).countSlip p (hunt candidate skipped bytes).slipped

/-- The bytes a receiver has collected since the sync pair, with the bytes that now arrive; none while it hunts. -/
def Receiver.collected : Receiver → List Byte → Option (List Byte)
  | .hunting _ _, _ => none
  | .collecting got, bytes => some (got ++ bytes)

/-- The receiver after a discarded oversize header: the four bytes are examined again as hunting bytes (R124). -/
def huntAgain (header : List Byte) : Receiver :=
  match hunt false false header with
  | .still candidate skipped => .hunting candidate skipped
  | .found _ rest => .collecting rest

/-- LENGTH_ERROR (R124): the header is complete and its length byte exceeds 200. -/
def execLengthError (p : Port) (bytes : List Byte) (s : State) : Host.Outcome State Fault Refusal :=
  .next <|
    match (s.rx p).collected bytes with
    | none => s
    | some header =>
      if oversizeHeader header then
        ((s.modPort p PortCounters.gainLengthErrors).setRx p (huntAgain header)).countSlip p
          (hunt false false header).slipped
      else s

/-- The CRC received is the CRC computed (R122, R125). -/
def Frame.crcOk (f : Frame) : Bool := decide (crc16 f.body = f.crc)

/-- The frame is a MANAGE frame for this engine (R128). -/
def State.isForMe (s : State) (f : Frame) : Bool := decide (f.kind = kindManage ∧ f.address = s.address)

/-- The size check of R125: the exact size of a sensor kind, and on the controller port at least a command code and a
tag for a MANAGE frame addressed to this engine. -/
def State.sizeOk (s : State) (p : Port) (f : Frame) : Bool :=
  (match exactSize f.kind with
    | some n => decide (f.payload.length = n)
    | none => true)
  && !(decide (p = .controller) && s.isForMe f && decide (f.payload.length < 2))

/-- A frame joins the forward FIFO, or is dropped and counted when it is full (R126, R127). -/
def State.forward (s : State) (f : Frame) : State :=
  if s.forwardFifo.length < Config.forwardCapacity then { s with forwardFifo := s.forwardFifo ++ [f] }
  else s.modPort .sensor PortCounters.gainDrops

/-- The kinds of which the node tracker takes a copy (R20, R126). -/
def isSensorKind (kind : Byte) : Bool := decide (kind = kindCycle ∨ kind = kindAlert ∨ kind = kindIdent)

/-- What a port does with an accepted frame: forwarding and the node tracker's copy at the sensor port (R126), whose
events complete an abandoned proof at once (R179); the two events of R128 at the controller port. The frame's presence
update takes the silence limit of the ACTIVE header as it stands here, at the acceptance: a new limit acts at the next
accepted frame (R138, R161), and the two events may be taken in either order (R128). DEDUCED, log entry 21. -/
def State.accept (s : State) (p : Port) (f : Frame) : State :=
  match p with
  | .sensor => (if isSensorKind f.kind then (s.forward f).trackFrame f else s.forward f).flushHeld
  | .controller =>
    { s with
      awaitingPresence := s.awaitingPresence ++ [s.active.header.silenceLimit]
      awaitingRouting := s.awaitingRouting ++ [f] }

/-- The checks of R125 on a whole frame, in order: CRC, size, acceptance. -/
def State.checkFrame (s : State) (p : Port) (f : Frame) : State :=
  if !f.crcOk then s.modPort p PortCounters.gainCrcErrors
  else if !s.sizeOk p f then s.modPort p PortCounters.gainLengthErrors
  else (s.modPort p PortCounters.gainAccepted).accept p f

/-- FRAME_CHECK (R125): the second CRC byte has been collected; either way the receiver then hunts. -/
def execFrameCheck (p : Port) (bytes : List Byte) (s : State) : Host.Outcome State Fault Refusal :=
  .next <|
    match ((s.rx p).collected bytes).bind parseFrame with
    | none => s
    | some f => (s.setRx p (.hunting false false)).checkFrame p f

/-! ## Controller presence (R132) -/

/-- The controller port takes the sign of life of a frame accepted under this silence limit: the deadline moves to now plus
the limit, and ABSENT becomes PRESENT with the lines recomputed (R132). -/
def State.signOfLife (s : State) (limit : Nat) : State :=
  let t := { s with presenceDeadline := some (after s.now limit) }
  if s.presence = .absent then State.recomputeLines { t with presence := .present } else t

/-- PRESENCE_UPDATE (R132): of the oldest accepted frame whose update is due, with the silence limit of the ACTIVE header
at that frame's acceptance. An ACTIVATE routed between the acceptance and the update, the frame's own included, does not
change that limit, so the update and the routing leave one deadline in either order (R128, R138, R161). DEDUCED, log
entry 21. -/
def execPresenceUpdate (s : State) : Host.Outcome State Fault Refusal :=
  .next <|
    match s.awaitingPresence with
    | [] => s
    | limit :: rest => State.signOfLife { s with awaitingPresence := rest } limit

/-- CONTROLLER_SILENCE_EXPIRY (R132): the deadline is reached; ABSENT, no deadline, the lines recomputed. -/
def execControllerSilenceExpiry (s : State) : Host.Outcome State Fault Refusal :=
  .next <|
    if due s.now s.presenceDeadline then
      State.recomputeLines { s with presence := .absent, presenceDeadline := none }
    else s

/-! ## Transmitters (R129 to R131) -/

/-- The payload of a VERDICT frame (R121). -/
def VerdictEntry.payload (e : VerdictEntry) : List Byte :=
  [byteOf e.zone, e.address, byteOf e.feeder, e.kind.code, e.history, e.state.code, faultedCode e.faulted,
   e.indications.mask, byteOf e.evidence, byteOf e.trips, reasonCode e.reason] ++ be32 e.raised.toNat

/-- The payload of a REPLY frame (R121). -/
def ReplyEntry.payload (r : ReplyEntry) : List Byte := r.code :: r.tag :: r.status.code :: r.data

/-- Transmission of a frame the engine originates: built with its address and sequence counter, which advances (R131). -/
def State.originate (s : State) (kind : Byte) (payload : List Byte) : State :=
  { s with
    controllerTx := some (buildFrame kind s.address s.sequence payload).bytes
    sequence := s.sequence + 1 }

/-- The choice of the controller-port transmitter (R130): the oldest verdict, else the oldest reply, whose leaving lets a
held completion reply join the queue (R167), else the oldest forwarded frame; idle when all are empty. -/
def State.chooseNext (s : State) : State :=
  match s.verdicts, s.replies, s.forwardFifo with
  | e :: rest, _, _ => State.originate { s with verdicts := rest } kindVerdict e.payload
  | [], r :: rest, _ => (State.originate { s with replies := rest } kindReply r.payload).flushHeld
  | [], [], f :: rest => { s with forwardFifo := rest, controllerTx := some f.bytes }
  | [], [], [] => { s with controllerTx := none }

/-- CONTROLLER_TX_START (R130): the idle transmitter starts the frame it chooses. -/
def execControllerTxStart (s : State) : Host.Outcome State Fault Refusal :=
  .next (if s.controllerTx = none then s.chooseNext else s)

/-- CONTROLLER_TX_END (R130): the transmission ends, and the transmitter chooses its next frame or goes idle. -/
def execControllerTxEnd (s : State) : Host.Outcome State Fault Refusal :=
  .next (if s.controllerTx = none then s else s.chooseNext)

/-- The sensor-port transmitter takes the oldest frame of its queue, or is idle (R129). -/
def State.sensorNext (s : State) : State :=
  { s with sensorTx := s.sensorQueue.head?.map Frame.bytes, sensorQueue := s.sensorQueue.tail }

/-- SENSOR_TX_START (R129): the idle transmitter starts the oldest frame of its queue. -/
def execSensorTxStart (s : State) : Host.Outcome State Fault Refusal :=
  .next (if s.sensorTx = none then s.sensorNext else s)

/-- SENSOR_TX_END (R129): the transmission ends, and the transmitter takes the next frame or goes idle. -/
def execSensorTxEnd (s : State) : Host.Outcome State Fault Refusal :=
  .next (if s.sensorTx = none then s else s.sensorNext)

end Sys2Proof.Machine
end

