-- ==== Sys2Proof/Machine/Routing.lean ====
section
/-!
DEFINITION. The routing of a frame accepted at the controller port (R128): a MANAGE frame for this engine is taken by
the management unit within the routing event (R165), every other frame joins the sensor-port transmit queue.
-/

namespace Sys2Proof.Machine

/-- The command a MANAGE payload spells: its code, tag and parameters (R121, R166). -/
def commandOf (code tag : Byte) (params : List Byte) : Instr :=
  if code = codeIdentify then .identify tag params
  else if code = codeReadStatus then .readStatus tag params
  else if code = codeReadNode then .readNode tag params
  else if code = codeReadZone then .readZone tag params
  else if code = codeReadHealth then .readHealth tag params
  else if code = codeReadCounters then .readCounters tag params
  else if code = codeClearCounters then .clearCounters tag params
  else if code = codeClearHealthNode then .clearHealthNode tag params
  else if code = codeLoadHeader then .loadHeader tag params
  else if code = codeLoadNode then .loadNode tag params
  else if code = codeLoadZoneProfile then .loadZoneProfile tag params
  else if code = codeLoadChannelProfile then .loadChannelProfile tag params
  else if code = codeClearStaged then .clearStaged tag params
  else if code = codeReadTable then .readTable tag params
  else if code = codeActivate then .activate tag params
  else if code = codeSetMode then .setMode tag params
  else if code = codeReleaseZone then .releaseZone tag params
  else if code = codeClearLockout then .clearLockout tag params
  else if code = codeBarNode then .barNode tag params
  else if code = codeAdmitNode then .admitNode tag params
  else if code = codeCaptureNow then .captureNow tag params
  else if code = codeReadCapture then .readCapture tag params
  else if code = codeFreeCapture then .freeCapture tag params
  else if code = codeProveZone then .proveZone tag params
  else if code = codeProveLine then .proveLine tag params
  else if code = codeCancelProof then .cancelProof tag params
  else if code = codeRestartEngine then .restartEngine tag params
  else .badCommand code tag params

/-- The management unit takes a command: the meaning of the row its code names (R165, R166). -/
def execManage (code tag : Byte) (params : List Byte) (s : State) : Host.Outcome State Fault Refusal :=
  if code = codeIdentify then execIdentify tag params s
  else if code = codeReadStatus then execReadStatus tag params s
  else if code = codeReadNode then execReadNode tag params s
  else if code = codeReadZone then execReadZone tag params s
  else if code = codeReadHealth then execReadHealth tag params s
  else if code = codeReadCounters then execReadCounters tag params s
  else if code = codeClearCounters then execClearCounters tag params s
  else if code = codeClearHealthNode then execClearHealthNode tag params s
  else if code = codeLoadHeader then execLoadHeader tag params s
  else if code = codeLoadNode then execLoadNode tag params s
  else if code = codeLoadZoneProfile then execLoadZoneProfile tag params s
  else if code = codeLoadChannelProfile then execLoadChannelProfile tag params s
  else if code = codeClearStaged then execClearStaged tag params s
  else if code = codeReadTable then execReadTable tag params s
  else if code = codeActivate then execActivate tag params s
  else if code = codeSetMode then execSetMode tag params s
  else if code = codeReleaseZone then execReleaseZone tag params s
  else if code = codeClearLockout then execClearLockout tag params s
  else if code = codeBarNode then execBarNode tag params s
  else if code = codeAdmitNode then execAdmitNode tag params s
  else if code = codeCaptureNow then execCaptureNow tag params s
  else if code = codeReadCapture then execReadCapture tag params s
  else if code = codeFreeCapture then execFreeCapture tag params s
  else if code = codeProveZone then execProveZone tag params s
  else if code = codeProveLine then execProveLine tag params s
  else if code = codeCancelProof then execCancelProof tag params s
  else if code = codeRestartEngine then execRestartEngine tag params s
  else execBadCommand code tag params s

/-- A frame joins the sensor-port transmit queue, or is dropped and counted when it is full (R128, R129). -/
def State.queueForSensor (s : State) (f : Frame) : State :=
  if s.sensorQueue.length < Config.sensorQueueCapacity then { s with sensorQueue := s.sensorQueue ++ [f] }
  else s.modPort .controller PortCounters.gainDrops

/-- The routing of one frame (R128). A MANAGE frame for this engine has a code and a tag, since a shorter one is
discarded by the size check of R125. -/
def routeFrame (f : Frame) (s : State) : Host.Outcome State Fault Refusal :=
  if s.isForMe f then
    match f.payload with
    | code :: tag :: params => execManage code tag params s
    | _ => .next s
  else .next (s.queueForSensor f)

/-- CONTROLLER_FRAME_ROUTING (R128): of the oldest accepted frame whose routing is due. A command that reads presence or the
lines sees them as they stand between the two events where the presence update is still due (R132). DEDUCED, log entry 22. -/
def execControllerFrameRouting (s : State) : Host.Outcome State Fault Refusal :=
  match s.awaitingRouting with
  | [] => .next s
  | f :: rest => routeFrame f { s with awaitingRouting := rest }

end Sys2Proof.Machine
end

