-- ==== Sys2Proof/Machine/Dispatch.lean ====
section
/-!
DEFINITION. The dispatch of a command to its meaning: one arm per constructor of Instr.
-/

namespace Sys2Proof.Machine

def exec (i : Instr) (s : State) : Host.Outcome State Fault Refusal :=
  match i with
  | .hardReset strap => Sys2Proof.Machine.execHardReset strap s
  | .lengthError port bytes => Sys2Proof.Machine.execLengthError port bytes s
  | .frameCheck port bytes => Sys2Proof.Machine.execFrameCheck port bytes s
  | .silenceExpiry node => Sys2Proof.Machine.execSilenceExpiry node s
  | .motionHoldExpiry node phase => Sys2Proof.Machine.execMotionHoldExpiry node phase s
  | .feederEvaluationExpiry feeder => Sys2Proof.Machine.execFeederEvaluationExpiry feeder s
  | .lossRecordExpiry zone => Sys2Proof.Machine.execLossRecordExpiry zone s
  | .stepTimerExpiry zone => Sys2Proof.Machine.execStepTimerExpiry zone s
  | .tripMemoryExpiry zone => Sys2Proof.Machine.execTripMemoryExpiry zone s
  | .graceExpiry zone => Sys2Proof.Machine.execGraceExpiry zone s
  | .presenceUpdate => Sys2Proof.Machine.execPresenceUpdate s
  | .controllerFrameRouting => Sys2Proof.Machine.execControllerFrameRouting s
  | .controllerSilenceExpiry => Sys2Proof.Machine.execControllerSilenceExpiry s
  | .controllerTxStart => Sys2Proof.Machine.execControllerTxStart s
  | .controllerTxEnd => Sys2Proof.Machine.execControllerTxEnd s
  | .sensorTxStart => Sys2Proof.Machine.execSensorTxStart s
  | .sensorTxEnd => Sys2Proof.Machine.execSensorTxEnd s
  | .pulseExpiry => Sys2Proof.Machine.execPulseExpiry s
  | .badCommand code tag params => Sys2Proof.Machine.execBadCommand code tag params s
  | .identify tag params => Sys2Proof.Machine.execIdentify tag params s
  | .readStatus tag params => Sys2Proof.Machine.execReadStatus tag params s
  | .readNode tag params => Sys2Proof.Machine.execReadNode tag params s
  | .readZone tag params => Sys2Proof.Machine.execReadZone tag params s
  | .readHealth tag params => Sys2Proof.Machine.execReadHealth tag params s
  | .readCounters tag params => Sys2Proof.Machine.execReadCounters tag params s
  | .clearCounters tag params => Sys2Proof.Machine.execClearCounters tag params s
  | .clearHealthNode tag params => Sys2Proof.Machine.execClearHealthNode tag params s
  | .loadHeader tag params => Sys2Proof.Machine.execLoadHeader tag params s
  | .loadNode tag params => Sys2Proof.Machine.execLoadNode tag params s
  | .loadZoneProfile tag params => Sys2Proof.Machine.execLoadZoneProfile tag params s
  | .loadChannelProfile tag params => Sys2Proof.Machine.execLoadChannelProfile tag params s
  | .clearStaged tag params => Sys2Proof.Machine.execClearStaged tag params s
  | .readTable tag params => Sys2Proof.Machine.execReadTable tag params s
  | .activate tag params => Sys2Proof.Machine.execActivate tag params s
  | .setMode tag params => Sys2Proof.Machine.execSetMode tag params s
  | .releaseZone tag params => Sys2Proof.Machine.execReleaseZone tag params s
  | .clearLockout tag params => Sys2Proof.Machine.execClearLockout tag params s
  | .barNode tag params => Sys2Proof.Machine.execBarNode tag params s
  | .admitNode tag params => Sys2Proof.Machine.execAdmitNode tag params s
  | .captureNow tag params => Sys2Proof.Machine.execCaptureNow tag params s
  | .readCapture tag params => Sys2Proof.Machine.execReadCapture tag params s
  | .freeCapture tag params => Sys2Proof.Machine.execFreeCapture tag params s
  | .proveZone tag params => Sys2Proof.Machine.execProveZone tag params s
  | .proveLine tag params => Sys2Proof.Machine.execProveLine tag params s
  | .cancelProof tag params => Sys2Proof.Machine.execCancelProof tag params s
  | .restartEngine tag params => Sys2Proof.Machine.execRestartEngine tag params s
  | .syncPairFound port bytes => Sys2Proof.Machine.execSyncPairFound port bytes s

end Sys2Proof.Machine
end

