-- ==== Sys2Proof/Safety.lean ====
section
/-!
DEFINITION. What the spec promises of every run, as conditions on one state: bounded queues, tables that passed
validation, records that match the tables, topology records that match the node states, trip lines that follow their
inputs, bounded evidence and trips, and whole capture slots. Also the frames
and the failures of the validation that statements cite.
-/

namespace Sys2Proof.Machine

/-! ## Hypotheses -/

/-- The management unit can take a command: room in the reply queue, and no completion reply held (R165, R179). -/
def State.CanTake (s : State) : Prop := s.replies.length < Config.replyCapacity ∧ s.proof.state ≠ .completionWaiting

/-- The state after a command that changes nothing but the reply queue: one REPLY more (R165). -/
def State.answer (s : State) (code tag : Byte) (status : Status) (data : List Byte) : State :=
  s.pushReply ⟨code, tag, status, data⟩

/-- A receiver holds a sync pair and no byte more (R123). -/
def State.InFrame (s : State) (p : Port) : Prop := s.rx p = .collecting []

/-- The positions that the expansion of a zone examines (R7): its children, and the children of each examined position
that has no boundary source. -/
inductive Examined (t : Tables) (live : Nat → Bool) (zone : Nat) : Nat → Prop where
  | child {c : Nat} : c ∈ t.children zone → Examined t live zone c
  | under {c d : Nat} : Examined t live zone c → boundarySource t live c = none → d ∈ t.children c → Examined t live zone d

/-- The depth of a position (R3): 1 for a HEAD, one more than its parent's for a NODE. A NODE whose chain of parents never
reaches a HEAD has none. -/
inductive HasDepth (t : Tables) : Nat → Nat → Prop where
  | head {i : Nat} {r : NodeRec} : t.node? i = some r → r.role = .head → HasDepth t i 1
  | node {i p d : Nat} {r : NodeRec} : t.node? i = some r → r.role = .node → r.parent = some p → HasDepth t p d →
      HasDepth t i (d + 1)

/-- A copy fails a check of R157: `Fails t c i` is a failure of check `c`, whose number is its reason code, with the index
`i` reported. Two points are the model's choice: any present record that a twin index names counts as a present twin in check
5 (log entry 20), and in check 11 the zone profiles come before the channel profiles, which their lower numbers say (log
entry 8). -/
inductive Fails (t : Tables) : Nat → Nat → Prop where
  | dupAddress {i j : Nat} {r q : NodeRec} : t.node? i = some r → t.node? j = some q → j < i → q.address = r.address →
      Fails t 1 i
  | noHead : (∀ i r, t.node? i = some r → r.role ≠ .head) → Fails t 2 0xFF
  | twoHeads {i j : Nat} {r q : NodeRec} : t.node? i = some r → t.node? j = some q → j < i → r.role = .head →
      q.role = .head → q.feeder = r.feeder → Fails t 3 i
  | badParent {i : Nat} {r : NodeRec} : t.node? i = some r → r.role = .node →
      (∀ p q, r.parent = some p → t.node? p = some q → q.role = .twin) → Fails t 4 i
  | parentElsewhere {i p : Nat} {r q : NodeRec} : t.node? i = some r → r.role = .node → r.parent = some p →
      t.node? p = some q → q.feeder ≠ r.feeder → Fails t 5 i
  | twinElsewhere {i p : Nat} {r q : NodeRec} : t.node? i = some r → r.role ≠ .twin → r.twin = some p →
      t.node? p = some q → q.feeder ≠ r.feeder → Fails t 5 i
  | cycle {i : Nat} {r : NodeRec} : t.node? i = some r → r.role = .node → (∀ d, ¬HasDepth t i d) → Fails t 6 i
  | tooDeep {i d : Nat} {r : NodeRec} : t.node? i = some r → r.role = .node → HasDepth t i d → 16 < d → Fails t 7 i
  | tooManyChildren {i : Nat} {r : NodeRec} {named : List Nat} : t.node? i = some r → r.role ≠ .twin → named.Nodup →
      (∀ c ∈ named, ∃ q, t.node? c = some q ∧ q.role = .node ∧ q.parent = some i) → 4 < named.length → Fails t 8 i
  | badTwin {i p : Nat} {r : NodeRec} : t.node? i = some r → r.role ≠ .twin → r.twin = some p →
      (∀ q, t.node? p = some q → q.role ≠ .twin) → Fails t 9 i
  | sharedTwin {i j k : Nat} {r p q : NodeRec} : t.node? i = some r → r.role = .twin → j ≠ k → t.node? j = some p →
      p.role ≠ .twin → p.twin = some i → t.node? k = some q → q.role ≠ .twin → q.twin = some i → Fails t 10 i
  | unnamedTwin {i : Nat} {r : NodeRec} : t.node? i = some r → r.role = .twin →
      (∀ j p, t.node? j = some p → p.role ≠ .twin → p.twin ≠ some i) → Fails t 10 i
  | zoneProfileOrder {n : Nat} {p : ZoneProfile} : t.zoneProfiles[n]? = some p → p.tConfirm < p.tSuspect →
      Fails t 11 (48 + n)
  | channelProfileOrder {n : Nat} {p : ChannelProfile} : t.channelProfiles[n]? = some p → p.ks ≤ p.kf ∨ p.sOn ≤ p.sOff →
      Fails t 11 (64 + n)

/-- The failure that ends the validation (R157): its check and index come first, the check before the index. -/
def FirstFailure (t : Tables) (check index : Nat) : Prop :=
  Fails t check index ∧ (∀ i, Fails t check i → index ≤ i) ∧ ∀ c i, c < check → ¬Fails t c i

/-- The proof of a command code and tag has just ended ABANDONED (R177, R179): its completion is the newest reply, or is held
where the reply queue is full. -/
def State.Abandoned (s : State) (code tag : Byte) : Prop :=
  (s.proof = .idle ∧ s.replies.getLast? = some ⟨code, tag, .abandoned, []⟩)
    ∨ (Config.replyCapacity ≤ s.replies.length ∧ s.proof.state = .completionWaiting
      ∧ s.proof.held = some ⟨code, tag, .abandoned, []⟩)

/-! ## Frames -/

/-- What no event of the zone state machine changes: everything but zones, verdicts, lines, slots, the missed-trigger
count and the proof record. -/
structure State.OutsideZones (s t : State) : Prop where
  now : t.now = s.now
  strap : t.strap = s.strap
  engine : t.engine = s.engine
  active : t.active = s.active
  staged : t.staged = s.staged
  nodes : t.nodes = s.nodes
  feeders : t.feeders = s.feeders
  presence : t.presence = s.presence
  presenceDeadline : t.presenceDeadline = s.presenceDeadline
  rxSensor : t.rxSensor = s.rxSensor
  rxController : t.rxController = s.rxController
  awaitingPresence : t.awaitingPresence = s.awaitingPresence
  awaitingRouting : t.awaitingRouting = s.awaitingRouting
  forwardFifo : t.forwardFifo = s.forwardFifo
  sensorQueue : t.sensorQueue = s.sensorQueue
  replies : t.replies = s.replies
  controllerTx : t.controllerTx = s.controllerTx
  sensorTx : t.sensorTx = s.sensorTx
  sequence : t.sequence = s.sequence
  counters : t.counters = s.counters
  rings : t.rings = s.rings
  pending : t.pending = s.pending

/-! ## Invariants -/

/-- Every queue within its capacity, one verdict entry for a zone at most, and a held reply only while the reply queue
is full (R106, R127, R129, R167, R179). -/
structure State.QueuesBounded (s : State) : Prop where
  forward : s.forwardFifo.length ≤ Config.forwardCapacity
  sensor : s.sensorQueue.length ≤ Config.sensorQueueCapacity
  replies : s.replies.length ≤ Config.replyCapacity
  oneEntry : (s.verdicts.map (·.zone)).Nodup
  entryZone : ∀ e ∈ s.verdicts, e.zone < Config.nodeCount
  held : s.proof.state = .completionWaiting → s.replies.length = Config.replyCapacity ∧ s.proof.held.isSome
  activeLength : s.active.nodes.length = Config.nodeCount
  stagedLength : s.staged.nodes.length = Config.nodeCount

/-- Both copies hold records in range; the ACTIVE copy is empty while UNCONFIGURED, and has passed every check of
ACTIVATE while RUNNING (R152, R153, R157, R162). -/
structure State.TablesValid (s : State) : Prop where
  active : s.active.inRange
  staged : s.staged.inRange
  unconfigured : s.engine = .unconfigured → s.active = .empty
  running : s.engine = .running → s.active.failure = none

/-- A runtime node record exists for each present record of the ACTIVE copy, and zone records for each HEAD or NODE
(R4, R19, R42, R65, R83). -/
structure State.RecordsMatch (s : State) : Prop where
  nodesLength : s.nodes.length = s.active.nodes.length
  zonesLength : s.zones.length = s.active.nodes.length
  nodes : ∀ i, (s.node? i).isSome = (s.active.node? i).isSome
  zones : ∀ z, (s.zone? z).isSome = (s.active.position? z).isSome

/-- Every topology record is the one the tree and the node states give: no record outlives a change of usability
(R8, R12, R16). -/
def State.TopologyCurrent (s : State) : Prop := ∀ z x, s.zone? z = some x → x.topo = s.newTopology z

/-- The tables, the records and the topology agree. -/
structure State.Configured (s : State) : Prop where
  tables : s.TablesValid
  records : s.RecordsMatch
  topology : s.TopologyCurrent

/-- Each line is asserted exactly while its policy condition holds or a proof pulse runs on it (R114, R115). -/
def State.LinesFollow (s : State) : Prop := ∀ l, s.lines.get l = (s.policyCondition l || s.pulseOn l)

/-- The numbers of a zone in their ranges: evidence, scores and trip count (R65, R77, R78, R83, R84). -/
structure Zone.InBounds (x : Zone) : Prop where
  evidence : x.eval.evidence ≤ 255
  score : x.eval.score ≤ 75
  phaseScores : ∀ ph, (x.eval.perPhase.get ph).score ≤ 75
  trips : x.run.trips ≤ 3

/-- Every zone's numbers in their ranges, under zone profiles in theirs. -/
structure State.ZonesBounded (s : State) : Prop where
  zones : ∀ z x, s.zone? z = some x → x.InBounds
  activeProfiles : s.active.zoneProfiles.all ZoneProfile.inRange
  stagedProfiles : s.staged.zoneProfiles.all ZoneProfile.inRange

/-- A capture slot is whole (R141, R144, R145): FREE and empty, or FILLING short of its target, or FROZEN at it; at most
128 records from before its trigger and 384 after. -/
structure Slot.Whole (x : Slot) : Prop where
  free : x.state = .free → x = .empty
  taken : x.state ≠ .free → x.feeder.isSome ∧ x.preRecords ≤ 128 ∧ 1 ≤ x.postTarget ∧ x.postTarget ≤ 384
  parts : x.preRecords ≤ x.records.length
  filling : x.state = .filling → x.records.length < x.preRecords + x.postTarget
  frozen : x.state = .frozen → x.records.length = x.preRecords + x.postTarget
  further : x.further ≤ 255

/-- The capture unit: rings of at most 128 records, whole slots, at most one FILLING slot for a feeder, a missed-trigger
count in range (R140 to R145, R149). -/
structure State.CaptureWhole (s : State) : Prop where
  rings : ∀ f, (s.rings.get f).length ≤ Config.ringCapacity
  slots : ∀ i, (s.slots.get i).Whole
  oneFilling : ∀ i j, (s.slots.get i).state = .filling → (s.slots.get j).state = .filling →
    (s.slots.get i).feeder = (s.slots.get j).feeder → i = j
  missed : s.missed ≤ 65535
  activeHeader : s.active.header.inRange
  stagedHeader : s.staged.header.inRange

/-- A channel's values in the ranges of R42. -/
structure Channel.InBounds (c : Channel) : Prop where
  iLast : c.iLast ≤ 65535
  vLast : c.vLast ≤ 65535
  hLast : c.hLast ≤ 65535
  hPrev : c.hPrev ≤ 65535
  iFast16 : c.iFast16 ≤ 1048560
  iSlow16 : c.iSlow16 ≤ 1048560
  score : c.score ≤ 65535
  arcRun : c.arcRun ≤ 64

/-- A node's numbers in their ranges: the channels', the health attributes and the warm-up progress (R19, R42). -/
structure NodeRun.InBounds (n : NodeRun) : Prop where
  channels : ∀ ph, (n.channels.get ph).InBounds
  health : n.health.inRange
  warmUp : n.warmUp ≤ 1024

/-- Every node's numbers, and the counters (R134), in their ranges, under channel profiles in theirs. -/
structure State.NodesBounded (s : State) : Prop where
  nodes : ∀ i n, s.node? i = some n → n.InBounds
  counters : ∀ k ∈ s.counters.toList, k ≤ 4294967295
  activeProfiles : s.active.channelProfiles.all ChannelProfile.inRange
  stagedProfiles : s.staged.channelProfiles.all ChannelProfile.inRange

/-- A node's deadline, expectation and bar reason fit its state (R19, R22, R23, R28, R33): the silence deadline is set
exactly in WARMING and LIVE, a sequence is expected only there, and a bar reason is held exactly in BARRED. -/
structure NodeRun.Fits (n : NodeRun) : Prop where
  deadline : n.silenceDeadline.isSome = true ↔ n.state = .warming ∨ n.state = .live
  expectation : n.seqExpect.isSome = true → n.state = .warming ∨ n.state = .live
  barred : n.barReason.isSome = true ↔ n.state = .barred

/-- A zone's timers and reason fit its state (R83, R86 to R89, R91, R96 to R98): the step timer and the would-trip flag
belong to SUSPECT, the grace timer to DEGRADED, no trip memory runs in TRIPPED or LOCKOUT, and a reason is held exactly in
TRIPPED, LOCKOUT and DEGRADED. -/
structure ZoneRecord.Fits (r : ZoneRecord) : Prop where
  step : r.stepDeadline.isSome = true → r.state = .suspect
  wouldTrip : r.wouldTrip = true → r.state = .suspect
  grace : r.graceDeadline.isSome = true → r.state = .degraded
  memory : r.memoryDeadline.isSome = true → r.state ≠ .tripped ∧ r.state ≠ .lockout
  reason : r.reason.isSome = true ↔ r.state = .tripped ∨ r.state = .lockout ∨ r.state = .degraded

/-- Every node's and every zone's timers fit its state. -/
structure State.TimersFit (s : State) : Prop where
  nodes : ∀ i n, s.node? i = some n → n.Fits
  zones : ∀ z x, s.zone? z = some x → x.run.Fits

end Sys2Proof.Machine
end

