-- ==== Sys2Proof/Certificates/Slice0/Obligations.lean ====
section
/-!
DEFINITION. The statements about the engine for the provers. Each docstring names the rule it formalises, or says that
it is the model's choice and names its log entry.
-/

open Sys2Proof Sys2Proof.Machine

/-! ## The queue of commands and the reset -/

/-- A step runs the command at the front of the queue on the rest; with no command waiting, one millisecond passes (the
queue and the tick are the model's: log entries 2 and 16; R1 for the count of milliseconds). -/
def Obligations.StepRunsTheFrontCommand : Prop :=
  (∀ (s : State) (c : Instr) (rest : List Instr),
    step { s with pending := c :: rest } = exec c { s with pending := rest })
  ∧ ∀ s : State, s.pending = [] → step s = .next { s with now := s.now + 1 }

/-- A hard reset (R136 with R1, R38, R81, R102, R111, R118, R133, R150, R152, R162, R168, R175): the strap is sampled, every
record, queue and counter is empty, no frame has a presence update or a routing due, and the STARTED notice waits. The two
fields of frames that are due, and the commands that wait, which a hard reset keeps, are the model's own (log entries 4 and
16). -/
def Obligations.HardResetLeavesTheResetState : Prop :=
  ∀ (strap : BitVec 2) (s : State), ∃ t, exec (.hardReset strap) s = .next t
    ∧ t.strap = strap ∧ t.now = 0 ∧ t.engine = .unconfigured ∧ t.active = .empty ∧ t.staged = .empty
    ∧ (∀ i, t.node? i = none) ∧ (∀ z, t.zone? z = none)
    ∧ (∀ f, t.feeders.get f = ⟨none, .standard, .standard⟩)
    ∧ t.verdicts = [] ∧ (∀ l, t.lines.get l = false) ∧ t.presence = .absent ∧ t.presenceDeadline = none
    ∧ (∀ p, t.rx p = .hunting false false) ∧ t.awaitingPresence = [] ∧ t.awaitingRouting = []
    ∧ t.forwardFifo = [] ∧ t.sensorQueue = []
    ∧ t.replies = [⟨0x00, 0, .done, [1]⟩] ∧ t.controllerTx = none ∧ t.sensorTx = none ∧ t.sequence = 0
    ∧ t.counters = .zero ∧ (∀ f, t.rings.get f = []) ∧ (∀ i, t.slots.get i = .empty) ∧ t.missed = 0
    ∧ t.proof = .idle ∧ t.pending = s.pending

/-- The state after reset meets every invariant of Safety.lean. -/
def Obligations.ResetMeetsEveryInvariant : Prop :=
  State.reset.QueuesBounded ∧ State.reset.Configured ∧ State.reset.LinesFollow ∧ State.reset.ZonesBounded
    ∧ State.reset.CaptureWhole ∧ State.reset.TimersFit ∧ State.reset.NodesBounded

/-! ## The tables -/

/-- LOAD HEADER, LOAD ZONE PROFILE and LOAD CHANNEL PROFILE (R153): the bytes of a record in range replace the STAGED
header, or the STAGED profile of the number named, and any other bytes or number are refused with BAD-PARAM; nothing else
changes. -/
def Obligations.LoadHeaderAndProfilesTakeTheRecordsInRange : Prop :=
  (∀ (s : State) (tag : Byte) (params : List Byte), s.CanTake →
      (∀ h : Header, h.inRange → h.encode = params →
        exec (.loadHeader tag params) s
          = .next (State.answer { s with staged := { s.staged with header := h } } 0x10 tag .done []))
      ∧ ((∀ h : Header, h.inRange → h.encode ≠ params) →
        exec (.loadHeader tag params) s = .next (s.answer 0x10 tag .badParam [])))
  ∧ (∀ (s : State) (tag i : Byte) (bytes : List Byte), s.CanTake →
      (∀ p : ZoneProfile, i.toNat < 16 → p.inRange → p.encode = bytes →
        exec (.loadZoneProfile tag (i :: bytes)) s
          = .next (State.answer
              { s with staged := { s.staged with zoneProfiles := s.staged.zoneProfiles.set i.toNat p } } 0x12 tag .done []))
      ∧ (16 ≤ i.toNat ∨ (∀ p : ZoneProfile, p.inRange → p.encode ≠ bytes) →
        exec (.loadZoneProfile tag (i :: bytes)) s = .next (s.answer 0x12 tag .badParam []))
      ∧ (∀ p : ChannelProfile, i.toNat < 8 → p.inRange → p.encode = bytes →
        exec (.loadChannelProfile tag (i :: bytes)) s
          = .next (State.answer
              { s with staged := { s.staged with channelProfiles := s.staged.channelProfiles.set i.toNat p } }
              0x13 tag .done []))
      ∧ (8 ≤ i.toNat ∨ (∀ p : ChannelProfile, p.inRange → p.encode ≠ bytes) →
        exec (.loadChannelProfile tag (i :: bytes)) s = .next (s.answer 0x13 tag .badParam [])))

/-- LOAD NODE (R153, R154): present 1 with a record in range for its role makes the STAGED record present with its fields,
present 0 with any twelve bytes makes it absent, and all else is refused with BAD-PARAM. CLEAR STAGED (R155), in either
engine state: the STAGED copy is empty, DONE is answered, and nothing else changes. -/
def Obligations.LoadNodeAndClearStagedSetTheStagedRecords : Prop :=
  (∀ (s : State) (tag i : Byte) (bytes : List Byte), s.CanTake →
    (∀ r : NodeRec, i.toNat < 48 → r.inRange → r.encode = bytes →
      exec (.loadNode tag (i :: bytes)) s
        = .next (State.answer { s with staged := { s.staged with nodes := s.staged.nodes.set i.toNat (some r) } }
            0x11 tag .done []))
    ∧ (∀ rest : List Byte, i.toNat < 48 → bytes = 0 :: rest → rest.length = 12 →
      exec (.loadNode tag (i :: bytes)) s
        = .next (State.answer { s with staged := { s.staged with nodes := s.staged.nodes.set i.toNat none } }
            0x11 tag .done []))
    ∧ (48 ≤ i.toNat ∨ ((∀ r : NodeRec, r.inRange → r.encode ≠ bytes) ∧ ∀ rest, bytes = 0 :: rest → rest.length ≠ 12) →
      exec (.loadNode tag (i :: bytes)) s = .next (s.answer 0x11 tag .badParam [])))
  ∧ ∀ (s : State) (tag : Byte), s.CanTake →
    exec (.clearStaged tag []) s = .next (State.answer { s with staged := .empty } 0x14 tag .done [])

/-- Records of the tables, written in the form of section 9.2 and read back, are the same records: no field is dropped, at
any value its range admits (R121, R153, R156). -/
def Obligations.TableRecordsParseBack : Prop :=
  (∀ h : Header, h.inRange → h.encode.length = 18 ∧ parseHeader h.encode = some h)
  ∧ (∀ r : NodeRec, r.inRange → r.encode.length = 13 ∧ parseNode r.encode = some (some r))
  ∧ parseNode (encodeNode none) = some none
  ∧ (∀ p : ZoneProfile, p.inRange → p.encode.length = 31 ∧ parseZoneProfile p.encode = some p)
  ∧ ∀ p : ChannelProfile, p.inRange → p.encode.length = 26 ∧ parseChannelProfile p.encode = some p

/-- READ TABLE (R156): the record of the copy, item and index named, with those three echoed; a copy, item or index out of
range is refused with BAD-PARAM. Nothing changes but the reply queue. -/
def Obligations.ReadTableReturnsTheNamedRecord : Prop :=
  ∀ (s : State) (tag copy item index : Byte) (t : Tables), s.CanTake →
    (copy = 0 ∧ t = s.active ∨ copy = 1 ∧ t = s.staged) →
    (item = 0 → index = 0 →
      exec (.readTable tag [copy, item, index]) s
        = .next (s.answer 0x15 tag .done (copy :: item :: index :: t.header.encode)))
    ∧ (item = 1 → index.toNat < 48 →
      exec (.readTable tag [copy, item, index]) s
        = .next (s.answer 0x15 tag .done (copy :: item :: index :: encodeNode (t.node? index.toNat))))
    ∧ (∀ n : Fin 16, item = 2 → index.toNat = n.val →
      exec (.readTable tag [copy, item, index]) s
        = .next (s.answer 0x15 tag .done (copy :: item :: index :: (t.zoneProfile n).encode)))
    ∧ (∀ n : Fin 8, item = 3 → index.toNat = n.val →
      exec (.readTable tag [copy, item, index]) s
        = .next (s.answer 0x15 tag .done (copy :: item :: index :: (t.channelProfile n).encode)))
    ∧ (4 ≤ item.toNat ∨ (item = 0 ∧ index ≠ 0) ∨ (item = 1 ∧ 48 ≤ index.toNat) ∨ (item = 2 ∧ 16 ≤ index.toNat)
        ∨ (item = 3 ∧ 8 ≤ index.toNat) →
      exec (.readTable tag [copy, item, index]) s = .next (s.answer 0x15 tag .badParam []))
    ∧ ∀ other : Byte, 2 ≤ other.toNat →
      exec (.readTable tag [other, item, index]) s = .next (s.answer 0x15 tag .badParam [])

/-! ## ACTIVATE -/

/-- A refused ACTIVATE (R157, R159, R164) changes nothing but the reply queue: BAD-PARAM for parameters, BAD-TABLE with the
index and reason of the first failure of the STAGED copy, REFUSED-TRIPPED with the lowest index of a tripped zone it would
drop. Two points of the index and reason are the model's choice: within PROFILE_ORDER zone profiles come first, log entry 8,
and CROSS_FEEDER counts any present record that a twin index names as a present twin, log entry 20. -/
def Obligations.RefusedActivateOnlyAnswers : Prop :=
  ∀ (s : State) (tag : Byte), s.CanTake →
    (∀ params : List Byte, params ≠ [] →
      exec (.activate tag params) s = .next (s.answer 0x16 tag .badParam []))
    ∧ (∀ (i : Nat) (reason : Byte), s.staged.failure = some (i, reason) →
      exec (.activate tag []) s = .next (s.answer 0x16 tag .badTable [byteOf i, reason]))
    ∧ (∀ (i : Nat) (reason : Byte), s.staged.inRange → FirstFailure s.staged reason.toNat i →
      exec (.activate tag []) s = .next (s.answer 0x16 tag .badTable [byteOf i, reason]))
    ∧ ∀ i : Nat, s.staged.failure = none → s.droppedTripped = some i →
      exec (.activate tag []) s = .next (s.answer 0x16 tag .refusedTripped [byteOf i, 12])

/-- A successful ACTIVATE (R160): the copies are exchanged; a node of the same address, feeder and role keeps its record,
in EXPECTED and with its voltage cleared as R39 and R57 say where its voltage sensing changed, and any other node has a new
one; every position of the new ACTIVE copy has its zone; the entries of kept zones stay in their places under their new
numbers, the others leave, and only the swap's hand-offs touch or join them (R110); the lines are recomputed, the engine is
RUNNING with its evaluation timers armed at the first ACTIVATE and kept at a later one, and DONE is answered. A slot in use
keeps its records and header, but for the further triggers of a zone restored into SUSPECT, and rings and all else that R138
and R150 keep are kept. What R128 leaves due is kept by the model's choice, log entry 4. The proof record of a pending zone
proof, and what each zone carries, have statements of their own. -/
def Obligations.ActivateSwapsAndReconciles : Prop :=
  ∀ (s : State) (tag : Byte), s.CanTake → s.staged.failure = none → s.droppedTripped = none →
    ∃ t, exec (.activate tag []) s = .next t
      ∧ t.active = s.staged ∧ t.staged = s.active ∧ t.engine = .running
      ∧ t.nodes = reconcileNodes s.active s.staged s.nodes
      ∧ (∀ j, s.staged.node? j = none → t.node? j = none)
      ∧ (∀ j r, s.staged.node? j = some r → ∃ m, t.node? j = some m
        ∧ ((∀ i o, s.active.node? i = some o → o.address = r.address → o.feeder = r.feeder → o.role ≠ r.role) → m = .fresh)
        ∧ ∀ i o n c, s.active.node? i = some o → s.node? i = some n →
          o.address = r.address → o.feeder = r.feeder → o.role = r.role →
          (∀ k q, s.active.node? k = some q → q.address = r.address → k = i) →
          c = (if r.voltageSensing then n.channels else n.channels.map fun c => { c with vLast := 0 }) →
          (o.voltageSensing = r.voltageSensing → m = n)
          ∧ (o.voltageSensing ≠ r.voltageSensing → n.state = .barred → m = { n with channels := c })
          ∧ (o.voltageSensing ≠ r.voltageSensing → n.state ≠ .barred → m = { n with
              channels := c, state := .expected, seqExpect := none, silenceDeadline := none, warmUp := 0 }))
      ∧ (∀ z, (t.zone? z).isSome = (s.staged.position? z).isSome)
      ∧ (s.verdicts.filterMap fun e => keptTo s.active s.staged e.zone) <+: t.verdicts.map (·.zone)
      ∧ (∀ e j, e ∈ s.verdicts → keptTo s.active s.staged e.zone = some j → ∃ v ∈ t.verdicts, v.zone = j
        ∧ (v = { e with zone := j } ∨ v.raised = s.now ∧ v.history = e.history ||| v.kind.bit
            ∧ (v.kind = .degraded ∨ v.kind = .restored ∨ v.kind = .absorbed)))
      ∧ (∀ v ∈ t.verdicts, (∃ e ∈ s.verdicts, keptTo s.active s.staged e.zone = some v.zone)
        ∨ v.raised = s.now ∧ v.history = v.kind.bit
            ∧ (v.kind = .degraded ∨ v.kind = .restored ∨ v.kind = .absorbed))
      ∧ (s.engine = .running → t.feeders = s.feeders)
      ∧ (s.engine = .unconfigured → ∀ f, t.feeders.get f
          = { s.feeders.get f with deadline := some (after s.now (s.staged.header.periods.get f)) })
      ∧ t.LinesFollow
      ∧ (s.proof.state ≠ .zonePending → t.replies = s.replies ++ [⟨0x16, tag, .done, []⟩]
        ∧ t.proof = { s.proof with takenOver := t.proof.takenOver }
        ∧ (t.proof.takenOver = true ↔ s.proof.takenOver = true ∨ ∃ l : Fin 4, s.proof.state = .pulseRunning
            ∧ s.proof.target = some l.val ∧ t.policyCondition l = true))
      ∧ t.now = s.now ∧ t.strap = s.strap ∧ t.presence = s.presence ∧ t.presenceDeadline = s.presenceDeadline
      ∧ t.rxSensor = s.rxSensor ∧ t.rxController = s.rxController ∧ t.awaitingPresence = s.awaitingPresence
      ∧ t.awaitingRouting = s.awaitingRouting ∧ t.forwardFifo = s.forwardFifo ∧ t.sensorQueue = s.sensorQueue
      ∧ t.controllerTx = s.controllerTx ∧ t.sensorTx = s.sensorTx ∧ t.sequence = s.sequence
      ∧ t.counters = s.counters ∧ t.rings = s.rings
      ∧ (∀ i, (s.slots.get i).state ≠ .free →
        t.slots.get i = { s.slots.get i with further := (t.slots.get i).further })
      ∧ (s.staged.header.triggerMask.getLsbD 0 = false → t.slots = s.slots ∧ t.missed = s.missed)
      ∧ t.pending = s.pending

/-- What a successful ACTIVATE makes of each zone (R81, R84, R102, R103, R159). Every TRIPPED or LOCKOUT zone is kept, with
its state, reason and evidence. A kept zone carries its records to the index its node now has: its trip count, lowered to
the lockout limit of its active profile, its trip memory and its evaluation record, in which only a reseed mark is set and
only an entry to ABSORBED drops the evidence; where its evaluability is unchanged, the whole state record. A zone that is not
kept has a fresh evaluation record and no trip, and stands as its evaluability says. -/
def Obligations.ActivateCarriesEveryKeptZoneOver : Prop :=
  ∀ (s : State) (tag : Byte), s.CanTake → s.RecordsMatch → s.staged.failure = none → s.droppedTripped = none →
    ∃ t, exec (.activate tag []) s = .next t
      ∧ (∀ z x, s.zone? z = some x → x.isTripped →
        ∃ j y, keptTo s.active s.staged z = some j ∧ t.zone? j = some y ∧ y.run.state = x.run.state
          ∧ y.run.reason = x.run.reason ∧ y.eval.evidence = x.eval.evidence)
      ∧ (∀ z j x r, s.zone? z = some x → keptTo s.active s.staged z = some j → s.staged.node? j = some r →
        ∃ y, t.zone? j = some y
          ∧ y.run.trips = min x.run.trips
              (s.staged.zoneProfile (profileNumber (s.feeders.get r.feeder).effective r)).lockoutLimit
          ∧ y.run.memoryDeadline = x.run.memoryDeadline
          ∧ y.eval = { x.eval with evidence := y.eval.evidence, perPhase := y.eval.perPhase }
          ∧ (∀ ph, y.eval.perPhase.get ph
                = { x.eval.perPhase.get ph with reseed := (y.eval.perPhase.get ph).reseed }
              ∧ ((x.eval.perPhase.get ph).reseed → (y.eval.perPhase.get ph).reseed))
          ∧ (y.eval.evidence = x.eval.evidence ∨ y.run.state = .absorbed ∧ y.eval.evidence = 0)
          ∧ (y.topo.evaluability = x.topo.evaluability →
              y.run = { x.run with trips := y.run.trips } ∧ y.eval.evidence = x.eval.evidence))
      ∧ ∀ j r, s.staged.position? j = some r → keptZone s.active s.staged j = none →
        ∃ y, t.zone? j = some y ∧ y.eval = .fresh ∧ y.run.trips = 0 ∧ y.run.memoryDeadline = none
          ∧ y.run.stepDeadline = none ∧ y.run.wouldTrip = false
          ∧ (y.run.state, y.run.reason) = (match y.topo.evaluability with
            | .evaluable => (.normal, none)
            | .absorbed => (.absorbed, none)
            | .headLost => (.degraded, some .headLost)
            | .boundaryOverflow => (.degraded, some .boundaryOverflow))

/-- The validation (R157). For a copy of records in range it gives the index and reason code of the first failure, the checks
in their order 1 to 11 and the index lowest within its check, and passes exactly the copies in which no check fails. A copy
that passes has the shape the topology resolver relies on (R3): unique addresses, one HEAD on each used feeder and at least
one, every NODE below a HEAD or NODE of its own feeder and at depth 16 at most, four children at most, twins that are TWINs
of the same feeder, each TWIN named once, and every profile in order. What the checks CROSS_FEEDER and PROFILE_ORDER report
rests on the model's choice in the points of log entries 20 and 8. -/
def Obligations.ValidationReportsTheFirstFailureOrPassesATree : Prop :=
  (∀ t : Tables, t.inRange →
    (∀ (i : Nat) (reason : Byte), t.failure = some (i, reason) ↔ FirstFailure t reason.toNat i)
    ∧ (t.failure = none ↔ ∀ c i, ¬Fails t c i))
  ∧ ∀ t : Tables, t.failure = none →
    (∀ i j r q, t.node? i = some r → t.node? j = some q → r.address = q.address → i = j)
    ∧ (∃ i r, t.node? i = some r ∧ r.role = .head)
    ∧ (∀ i j r q, t.node? i = some r → t.node? j = some q → r.role = .head → q.role = .head → r.feeder = q.feeder → i = j)
    ∧ (∀ i r, t.node? i = some r → r.role = .node → ∃ p q d, r.parent = some p ∧ t.position? p = some q
        ∧ q.feeder = r.feeder ∧ t.depth t.nodes.length i = some d ∧ 2 ≤ d ∧ d ≤ 16)
    ∧ (∀ i r, t.position? i = some r → (t.children i).length ≤ 4)
    ∧ (∀ i r q, t.position? i = some r → r.twin = some q →
        ∃ x, t.node? q = some x ∧ x.role = .twin ∧ x.feeder = r.feeder)
    ∧ (∀ i r, t.node? i = some r → r.role = .twin → ∃ p, t.twinOf p = some i ∧ ∀ q, t.twinOf q = some i → q = p)
    ∧ (∀ p ∈ t.zoneProfiles, p.tSuspect ≤ p.tConfirm)
    ∧ ∀ p ∈ t.channelProfiles, p.kf < p.ks ∧ p.sOff < p.sOn

/-! ## Receiving frames -/

/-- A frame's bytes after its sync pair are read back as that frame, for any payload of 0..200 bytes, and a frame the engine
builds passes the CRC check of a receiver (R121, R122, R131). -/
def Obligations.FrameBytesParseBack : Prop :=
  (∀ f : Frame, f.payload.length ≤ 200 →
    f.bytes = 0xC5 :: 0x3A :: f.bytes.drop 2 ∧ parseFrame (f.bytes.drop 2) = some f)
  ∧ ∀ (kind address sequence : Byte) (payload : List Byte), payload.length ≤ 200 →
    (buildFrame kind address sequence payload).crcOk

/-- The hunt (R123, R124). The bytes a hunting receiver examines, with the candidate 0xC5 it holds, are skipped up to the
first sync pair, where the frame starts; an episode that skipped anything adds one slip, however many bytes it skipped. Bytes
without a sync pair leave it hunting, with a candidate where the last of them is 0xC5. A header with an oversize length, in
one event or completed after bytes collected before, is discarded, one length error is counted, and its four bytes are
examined again as hunting bytes, so that a sync pair hidden among them is found. That an event carries the bytes since the
last one is the model's choice, log entry 7. -/
def Obligations.HuntEndsAtTheSyncPair : Prop :=
  (∀ (s : State) (p : Port) (candidate skipped : Bool) (bytes stream : List Byte), s.rx p = .hunting candidate skipped →
      stream = (if candidate then [0xC5] else []) ++ bytes →
      (∀ noise, stream = noise ++ [0xC5, 0x3A] → (∀ a b, noise ++ [0xC5] ≠ a ++ 0xC5 :: 0x3A :: b) →
        exec (.syncPairFound p bytes) s
          = .next (if skipped = true ∨ noise ≠ [] then (s.setRx p (.collecting [])).modPort p PortCounters.gainSlips
              else s.setRx p (.collecting [])))
      ∧ ((∀ a b, stream ≠ a ++ 0xC5 :: 0x3A :: b) →
        (∀ noise, stream = noise ++ [0xC5] →
          exec (.syncPairFound p bytes) s = .next (s.setRx p (.hunting true (skipped || decide (noise ≠ [])))))
        ∧ ((∀ noise, stream ≠ noise ++ [0xC5]) →
          exec (.syncPairFound p bytes) s = .next (s.setRx p (.hunting false (skipped || decide (stream ≠ [])))))))
  ∧ (∀ (s : State) (p : Port) (got bytes : List Byte) (k a q l : Byte), s.rx p = .collecting got →
      got ++ bytes = [k, a, q, l] → 200 < l.toNat →
      (¬(k = 0xC5 ∧ a = 0x3A) → ¬(a = 0xC5 ∧ q = 0x3A) →
        exec (.lengthError p bytes) s
          = .next ((s.modPort p PortCounters.gainLengthErrors).setRx p (.hunting false true)))
      ∧ (k = 0xC5 → a = 0x3A →
        exec (.lengthError p bytes) s
          = .next ((s.modPort p PortCounters.gainLengthErrors).setRx p (.collecting [q, l])))
      ∧ (a = 0xC5 → q = 0x3A →
        exec (.lengthError p bytes) s
          = .next (((s.modPort p PortCounters.gainLengthErrors).setRx p (.collecting [l])).modPort p
              PortCounters.gainSlips)))

/-- A frame that fails a check of R125 is discarded and counted, and changes nothing else, in one event or completed after
bytes collected before: a wrong CRC, a sensor kind at a size not its own on either port, a MANAGE frame for this engine
without a tag on the controller port. That an event carries the bytes since the last one is the model's choice, log entry
7. -/
def Obligations.BadFramesAreOnlyCounted : Prop :=
  ∀ (s : State) (p : Port) (f : Frame) (got bytes : List Byte), s.rx p = .collecting got →
    got ++ bytes = f.bytes.drop 2 → f.payload.length ≤ 200 →
    (f.crcOk = false →
      exec (.frameCheck p bytes) s
        = .next ((s.setRx p (.hunting false false)).modPort p PortCounters.gainCrcErrors))
    ∧ (∀ n : Nat, f.crcOk → exactSize f.kind = some n → f.payload.length ≠ n →
      exec (.frameCheck p bytes) s
        = .next ((s.setRx p (.hunting false false)).modPort p PortCounters.gainLengthErrors))
    ∧ (f.crcOk → p = .controller → f.kind = 0x40 → f.address = s.address → f.payload.length < 2 →
      exec (.frameCheck p bytes) s
        = .next ((s.setRx p (.hunting false false)).modPort p PortCounters.gainLengthErrors))

/-- Accepted frames (R20, R125 to R128, R179), in one event or completed after bytes collected before. At the sensor port a
frame joins the forward FIFO, or is dropped and counted at a full one; a CYCLE, ALERT or IDENT frame is given to the node
tracker whether or not the forward copy found room, and a completion the event makes is queued at once; no other block sees
another kind. At the controller port a frame is counted, and its presence update and its routing are then due. How the two
events are noted as due, with the silence limit for the update, and that an event carries the bytes since the last one, are
the model's choice, log entries 4, 21 and 7. -/
def Obligations.AcceptedFramesGoWhereTheirPortSendsThem : Prop :=
  (∀ (s : State) (f : Frame) (got bytes : List Byte), s.rxSensor = .collecting got → got ++ bytes = f.bytes.drop 2 →
      f.payload.length ≤ 200 → f.crcOk → exactSize f.kind = none → s.canFlush = false →
      (s.forwardFifo.length < 64 →
        exec (.frameCheck .sensor bytes) s
          = .next { s with
              rxSensor := .hunting false false
              forwardFifo := s.forwardFifo ++ [f]
              counters := { s.counters with sensor := s.counters.sensor.gainAccepted } })
      ∧ (64 ≤ s.forwardFifo.length →
        exec (.frameCheck .sensor bytes) s
          = .next { s with
              rxSensor := .hunting false false
              counters := { s.counters with sensor := s.counters.sensor.gainAccepted.gainDrops } }))
  ∧ (∀ (s : State) (f : Frame) (got bytes : List Byte), s.rxSensor = .collecting got → got ++ bytes = f.bytes.drop 2 →
      f.payload.length ≤ 200 → f.crcOk → exactSize f.kind = some f.payload.length →
      exec (.frameCheck .sensor bytes) s
        = .next ((((s.setRx .sensor (.hunting false false)).modPort .sensor PortCounters.gainAccepted).forward f).trackFrame
            f).flushHeld)
  ∧ (∀ (s : State) (f : Frame) (got bytes : List Byte), s.rxController = .collecting got →
      got ++ bytes = f.bytes.drop 2 → f.payload.length ≤ 200 → f.crcOk →
      (∀ n, exactSize f.kind = some n → f.payload.length = n) →
      ¬(f.kind = 0x40 ∧ f.address = s.address ∧ f.payload.length < 2) →
      exec (.frameCheck .controller bytes) s
        = .next { s with
            rxController := .hunting false false
            counters := { s.counters with controller := s.counters.controller.gainAccepted }
            awaitingPresence := s.awaitingPresence ++ [s.active.header.silenceLimit]
            awaitingRouting := s.awaitingRouting ++ [f] })

/-! ## The node tracker -/

/-- An IDENT frame at a known unit (R21 to R23, R34), by the state of its node. It matches when its voltage-sensing byte
agrees with the node record and its mask names all three phases. A matching one starts the warm-up from EXPECTED, and from
SILENT with auto-return; it writes the unit class alone in WARMING, LIVE and SILENT without auto-return; a mismatching one
bars, and from LIVE its feeder is recomputed; BARRED ignores both. -/
def Obligations.IdentMovesTheUnit : Prop :=
  ∀ (s : State) (f : Frame) (i : Nat) (r : NodeRec) (n m : NodeRun) (cls sensing fitted : Byte) (matched : Prop),
    s.active.find? f.address = some i → s.active.node? i = some r → s.node? i = some n →
    f.kind = 0x12 → f.payload = [cls, sensing, fitted] →
    (matched ↔ sensing = (if r.voltageSensing then 1 else 0) ∧ fitted.getLsbD 0 = true ∧ fitted.getLsbD 1 = true
      ∧ fitted.getLsbD 2 = true) →
    m = { n with
      unitClass := some cls, state := .barred, barReason := some .mismatch, seqExpect := none, silenceDeadline := none } →
    (matched → (n.state = .expected ∨ (n.state = .silent ∧ r.autoReturn)) →
      s.trackFrame f = s.setNode i { n with
        unitClass := some cls
        state := .warming
        seqExpect := none
        silenceDeadline := some (after s.now (s.active.profileOf r).silenceLimit)
        warmUp := 0
        channels := n.channels.map fun c => { c with seeded := false } })
    ∧ (matched → (n.state = .warming ∨ n.state = .live ∨ (n.state = .silent ∧ r.autoReturn = false)) →
      s.trackFrame f = s.setNode i { n with unitClass := some cls })
    ∧ (¬matched → (n.state = .expected ∨ n.state = .warming ∨ n.state = .silent) → s.trackFrame f = s.setNode i m)
    ∧ (¬matched → n.state = .live →
      s.trackFrame f = (s.setNode i m).recompute r.feeder ∧ State.OutsideZones (s.setNode i m) (s.trackFrame f))
    ∧ (n.state = .barred → s.trackFrame f = s)

/-- A CYCLE frame at a LIVE unit (R25, R26, R29, R30, R34, R139, R140): in order, after a gap, or with nothing expected, it
is counted, checked, recorded and taken by the channels, and moves the expectation and the silence deadline; a stale one is
only counted and checked. Where a check finds an attribute at its threshold and the node has auto-bar, the node is BARRED
with reason HEALTH, takes no more of the frame, and its feeder is recomputed. -/
def Obligations.CycleFrameOfALiveUnit : Prop :=
  ∀ (s : State) (f : Frame) (i : Nat) (r : NodeRec) (n : NodeRun) (p : ChannelProfile) (h : Health) (d sats : Nat)
    (hit : Bool),
    s.active.find? f.address = some i → s.active.node? i = some r → s.node? i = some n →
    f.kind = 0x10 → n.state = .live → p = s.active.profileOf r → sats = countPhases (cycleFlags f.payload) →
    (n.seqExpect = none → d = 0) → (∀ e, n.seqExpect = some e → d = (f.sequence - e).toNat) →
    (d < 128 →
      h = { n.health with gaps := min 65535 (n.health.gaps + d), saturations := min 65535 (n.health.saturations + sats) } →
      hit = decide ((d ≠ 0 ∧ p.thresholds.gaps ≠ 0 ∧ p.thresholds.gaps ≤ h.gaps)
        ∨ (sats ≠ 0 ∧ p.thresholds.saturations ≠ 0 ∧ p.thresholds.saturations ≤ h.saturations)) →
      ((hit = false ∨ r.autoBar = false) →
        s.trackFrame f = (s.pushRecord r.feeder (recordOf s.now f)).setNode i { n with
          health := h
          exceeded := n.exceeded || hit
          seqExpect := some (f.sequence + 1)
          silenceDeadline := some (after s.now p.silenceLimit)
          channels := takeChannels p r.voltageSensing f.payload n.channels })
      ∧ (hit = true → r.autoBar = true →
        s.trackFrame f = (s.setNode i { n with
          health := h, exceeded := true, state := .barred, barReason := some .health, seqExpect := none,
          silenceDeadline := none }).recompute r.feeder))
    ∧ (128 ≤ d → h = { n.health with stales := min 65535 (n.health.stales + 1) } →
      hit = decide (p.thresholds.stales ≠ 0 ∧ p.thresholds.stales ≤ h.stales) →
      ((hit = false ∨ r.autoBar = false) →
        s.trackFrame f = s.setNode i { n with health := h, exceeded := n.exceeded || hit })
      ∧ (hit = true → r.autoBar = true →
        s.trackFrame f = (s.setNode i { n with
          health := h, exceeded := true, state := .barred, barReason := some .health, seqExpect := none,
          silenceDeadline := none }).recompute r.feeder))

/-- CYCLE frames that reach no channel (R20, R24): from an unknown address and from an EXPECTED unit they are counted, from
a BARRED unit and a SILENT one without auto-return they change nothing. -/
def Obligations.IgnoredCycleFramesTouchNoRecord : Prop :=
  (∀ (s : State) (f : Frame), s.active.find? f.address = none →
    s.trackFrame f = { s with counters := { s.counters with unknownSource := min 4294967295 (s.counters.unknownSource + 1) } })
  ∧ ∀ (s : State) (f : Frame) (i : Nat) (r : NodeRec) (n : NodeRun),
    s.active.find? f.address = some i → s.active.node? i = some r → s.node? i = some n → f.kind = 0x10 →
    (n.state = .expected →
      s.trackFrame f
        = { s with counters := { s.counters with unidentified := min 4294967295 (s.counters.unidentified + 1) } })
    ∧ (n.state = .barred ∨ (n.state = .silent ∧ r.autoReturn = false) → s.trackFrame f = s)

/-- A CYCLE frame at a WARMING unit (R25 to R27, R29, R30), the first one of a warm-up among them: it is counted, checked,
recorded and taken by the channels, and its progress is one higher (up to 1024, log entry 18); the frame that reaches the
warm-up count takes the node to LIVE, and its feeder is recomputed; a stale frame is only counted and checked; a check that
finds an attribute at its threshold bars a node with auto-bar, which takes no more of the frame. A SILENT unit with
auto-return takes the frame as the first of a warm-up (R24). -/
def Obligations.WarmUpEndsInLive : Prop :=
  ∀ (s : State) (f : Frame) (i : Nat) (r : NodeRec) (n : NodeRun) (p : ChannelProfile),
    s.active.find? f.address = some i → s.active.node? i = some r → s.node? i = some n →
    f.kind = 0x10 → p = s.active.profileOf r →
    (∀ (h : Health) (d sats progress : Nat) (hit : Bool) (m barred : NodeRun), n.state = .warming →
      sats = countPhases (cycleFlags f.payload) → progress = min 1024 (n.warmUp + 1) →
      (n.seqExpect = none → d = 0) → (∀ e, n.seqExpect = some e → d = (f.sequence - e).toNat) →
      barred = { n with
        health := h, exceeded := true, state := .barred, barReason := some .health, seqExpect := none,
        silenceDeadline := none } →
      (d < 128 →
        h = { n.health with
          gaps := min 65535 (n.health.gaps + d), saturations := min 65535 (n.health.saturations + sats) } →
        hit = decide ((d ≠ 0 ∧ p.thresholds.gaps ≠ 0 ∧ p.thresholds.gaps ≤ h.gaps)
          ∨ (sats ≠ 0 ∧ p.thresholds.saturations ≠ 0 ∧ p.thresholds.saturations ≤ h.saturations)) →
        m = { n with
          health := h
          exceeded := n.exceeded || hit
          seqExpect := some (f.sequence + 1)
          silenceDeadline := some (after s.now p.silenceLimit)
          channels := takeChannels p r.voltageSensing f.payload n.channels
          warmUp := progress } →
        ((hit = false ∨ r.autoBar = false) → progress < p.warmUpCount →
          s.trackFrame f = (s.pushRecord r.feeder (recordOf s.now f)).setNode i m)
        ∧ ((hit = false ∨ r.autoBar = false) → p.warmUpCount ≤ progress →
          s.trackFrame f
              = ((s.pushRecord r.feeder (recordOf s.now f)).setNode i { m with state := .live }).recompute r.feeder
            ∧ State.OutsideZones ((s.pushRecord r.feeder (recordOf s.now f)).setNode i { m with state := .live })
              (s.trackFrame f))
        ∧ (hit = true → r.autoBar = true → s.trackFrame f = s.setNode i barred))
      ∧ (128 ≤ d → h = { n.health with stales := min 65535 (n.health.stales + 1) } →
        hit = decide (p.thresholds.stales ≠ 0 ∧ p.thresholds.stales ≤ h.stales) →
        ((hit = false ∨ r.autoBar = false) →
          s.trackFrame f = s.setNode i { n with health := h, exceeded := n.exceeded || hit })
        ∧ (hit = true → r.autoBar = true → s.trackFrame f = s.setNode i barred)))
    ∧ (n.state = .silent → r.autoReturn = true →
      s.trackFrame f = (s.setNode i { n with
        state := .warming
        seqExpect := none
        silenceDeadline := some (after s.now p.silenceLimit)
        warmUp := 0
        channels := n.channels.map fun c => { c with seeded := false } }).trackFrame f)

/-- ALERT frames (R35, R36): MOTION from a WARMING, LIVE or SILENT unit sets the hold of each named phase and keeps the
others, and raises one MOTION trigger where a phase is named; from EXPECTED or BARRED it is ignored; any other kind is
counted. -/
def Obligations.MotionAlertSetsHolds : Prop :=
  ∀ (s : State) (f : Frame) (i : Nat) (r : NodeRec) (n : NodeRun) (kind mask : Byte),
    s.active.find? f.address = some i → s.active.node? i = some r → s.node? i = some n →
    f.kind = 0x11 → f.payload = [kind, mask] →
    (kind = 1 → (n.state = .warming ∨ n.state = .live ∨ n.state = .silent) →
      ∃ m, s.trackFrame f = (if anyPhase mask then (s.setNode i m).raiseTrigger r.feeder .motion (some i) else s.setNode i m)
        ∧ m = { n with motionHold := m.motionHold }
        ∧ ∀ ph, m.motionHold.get ph = if phaseBit mask ph then some (after s.now (s.active.profileOf r).motionHold)
            else n.motionHold.get ph)
    ∧ (kind = 1 → (n.state = .expected ∨ n.state = .barred) → s.trackFrame f = s)
    ∧ (kind ≠ 1 →
      s.trackFrame f
        = { s with counters := { s.counters with unknownAlerts := min 4294967295 (s.counters.unknownAlerts + 1) } })

/-- SILENCE_EXPIRY (R13, R28 to R30, R34, R75): the node falls SILENT, or BARRED where a reached threshold bars it, and is
counted; a node that was WARMING changes nothing else; for one that was LIVE the loss record of each zone whose list held it
is set from the zone's loss window, and no other zone record moves before its feeder is recomputed; with no zone proof
pending nothing outside the zones changes and the loss records stay as they were set. Before the deadline nothing happens.
That last clause is the model's choice, log entry 1. -/
def Obligations.SilenceExpiryLosesTheUnit : Prop :=
  ∀ (s : State) (i : Nat) (r : NodeRec) (n m : NodeRun) (silences : Nat) (hit : Bool),
    s.active.node? i = some r → s.node? i = some n → silences = min 65535 (n.health.silences + 1) →
    hit = decide ((s.active.profileOf r).thresholds.silences ≠ 0
      ∧ (s.active.profileOf r).thresholds.silences ≤ silences) →
    m = { n with
      state := if hit && r.autoBar then .barred else .silent
      barReason := if hit && r.autoBar then some .health else n.barReason
      seqExpect := none
      silenceDeadline := none
      health := { n.health with silences := silences }
      exceeded := n.exceeded || hit } →
    (due s.now n.silenceDeadline → n.state = .warming → s.canFlush = false →
      exec (.silenceExpiry i) s = .next (s.setNode i m))
    ∧ (due s.now n.silenceDeadline → n.state = .live →
      ∃ u : State, u = { s.setNode i m with zones := u.zones }
        ∧ (∀ z x, s.zone? z = some x → u.zone? z = some (if z ∈ s.active.zonesOf r.feeder ∧ i ∈ x.topo.sources
            then { x with eval := { x.eval with lossRecord := some (after s.now (s.profile z).lossWindow) } } else x))
        ∧ exec (.silenceExpiry i) s = .next (u.recompute r.feeder).flushHeld)
    ∧ (due s.now n.silenceDeadline → n.state = .live → s.proof.state ≠ .zonePending → s.canFlush = false →
      ∃ t, exec (.silenceExpiry i) s = .next t ∧ State.OutsideZones (s.setNode i m) t
        ∧ ∀ z x, s.zone? z = some x → ∃ y, t.zone? z = some y
          ∧ y.eval.lossRecord = if z ∈ s.active.zonesOf r.feeder ∧ i ∈ x.topo.sources
              then some (after s.now (s.profile z).lossWindow) else x.eval.lossRecord)
    ∧ (due s.now n.silenceDeadline = false → exec (.silenceExpiry i) s = .next s)

/-! ## The channel processor -/

/-- What a frame does to a channel. A seeding frame (R46): both averages at 16 times the reported current, Hprev at the
reported harmonic current, no score, no arc, the saturated mark as flagged, the seeded flag set. An ordinary frame (R45, R47,
R49, R50, R52, R53): at a saturated phase the current side is held and the mark set; at a clean one each average moves by its
difference from 16 times the current, divided and truncated toward zero, the score leaks its share and gains the capped
change, and the arc flag and its release run follow the new score. The voltage (R51), at seeding, ordinary and saturated
frames alike: 0 without voltage sensing, else the reported voltage, or the held one where the frame says the voltage is
absent. -/
def Obligations.FramesSeedStepOrHoldTheChannel : Prop :=
  (∀ (c : Channel) (p : ChannelProfile) (sensing absent saturated : Bool) (m : Measure), c.seeded = false →
    c.take p sensing absent saturated m =
      { iLast := m.i
        vLast := if sensing then (if absent then c.vLast else m.v) else 0
        hLast := m.h
        hPrev := m.h
        iFast16 := 16 * m.i
        iSlow16 := 16 * m.i
        score := 0
        arcFlag := false
        arcRun := 0
        saturated := saturated
        seeded := true })
  ∧ (∀ (c : Channel) (p : ChannelProfile) (sensing absent : Bool) (m : Measure), c.seeded = true →
      (let t := c.take p sensing absent true m
       t = { c with iLast := m.i, hLast := m.h, vLast := t.vLast, saturated := true })
      ∧ (let t := c.take p sensing absent false m
         t.iLast = m.i ∧ t.hLast = m.h ∧ t.hPrev = m.h ∧ t.saturated = false ∧ t.seeded = true
         ∧ (t.iFast16 : Int) = c.iFast16 + Int.tdiv (16 * m.i - c.iFast16) (2 ^ p.kf)
         ∧ (t.iSlow16 : Int) = c.iSlow16 + Int.tdiv (16 * m.i - c.iSlow16) (2 ^ p.ks)
         ∧ t.score = min 65535 (c.score - c.score / 2 ^ p.kl + min (max (m.h - c.hPrev) (c.hPrev - m.h)) p.hCap)))
  ∧ (∀ (c t : Channel) (p : ChannelProfile) (sensing absent : Bool) (m : Measure), c.seeded = true →
      t = c.take p sensing absent false m →
      (c.arcFlag = false → t.arcFlag = decide (p.sOn ≤ t.score) ∧ t.arcRun = 0)
      ∧ (c.arcFlag = true → p.sOff ≤ t.score → t.arcFlag = true ∧ t.arcRun = 0)
      ∧ (c.arcFlag = true → t.score < p.sOff → c.arcRun + 1 < p.arcReleaseCount →
          t.arcFlag = true ∧ t.arcRun = c.arcRun + 1)
      ∧ (c.arcFlag = true → t.score < p.sOff → p.arcReleaseCount ≤ c.arcRun + 1 → t.arcFlag = false ∧ t.arcRun = 0))
  ∧ ∀ (c : Channel) (p : ChannelProfile) (sensing absent saturated : Bool) (m : Measure),
    (c.take p sensing absent saturated m).vLast
      = match sensing, absent with
        | false, _ => 0
        | true, false => m.v
        | true, true => c.vLast

/-- Every frame keeps a channel's values in the ranges of R42 (R48), whatever was reported. The drop ratio (R54) is 0 below
16 times Imin, and where the fast average is no lower than the slow one, else their difference in thousandths of the slow
one; it is 0..1000, reaching 1000 only at a fast average of 0. -/
def Obligations.ChannelStaysInRange : Prop :=
  (∀ (c : Channel) (p : ChannelProfile) (sensing absent saturated : Bool) (m : Measure), c.InBounds → p.inRange →
    m.i ≤ 65535 → m.v ≤ 65535 → m.h ≤ 65535 → (c.take p sensing absent saturated m).InBounds)
  ∧ ∀ (iMin : Nat) (c : Channel),
    (c.iSlow16 < 16 * iMin ∨ c.iSlow16 ≤ c.iFast16 → dropRatio iMin c = 0)
    ∧ (16 * iMin ≤ c.iSlow16 → c.iFast16 < c.iSlow16 →
      dropRatio iMin c = 1000 * (c.iSlow16 - c.iFast16) / c.iSlow16)
    ∧ dropRatio iMin c ≤ 1000 ∧ (dropRatio iMin c = 1000 → c.iFast16 = 0)

/-! ## The topology resolver -/

/-- The topology record of a zone (R5 to R9). The boundary source of a position: its own unit while LIVE, else its twin while
LIVE, else none. In a validated copy the list holds the boundaries that the expansion of the zone's children finds, each with
its source, ascending, the first 8 of them, with the true number as count, and the absorbed members are the examined
positions without a source. A zone with a source at its upper end has no host, and is EVALUABLE, or BOUNDARY_OVERFLOW above 8
boundaries; without one the HEAD zone is HEAD_LOST, and any other is ABSORBED with an empty list, and its host is its parent
where that has a source or is the HEAD, else its parent's host. In any copy the list is ascending and LIVE, and the members
are excluded positions. -/
def Obligations.TopologyRecordOfAZone : Prop :=
  (∀ (t : Tables) (live : Nat → Bool) (p : Nat),
    (live p → boundarySource t live p = some (p, false))
    ∧ (∀ q, live p = false → t.twinOf p = some q → live q → boundarySource t live p = some (q, true))
    ∧ (live p = false → (∀ q, t.twinOf p = some q → live q = false) → boundarySource t live p = none))
  ∧ (∀ (t : Tables) (live : Nat → Bool) (z : Nat) (x : Topology), x = topologyOf t live z →
    (x.list.map (·.position)).Pairwise (· < ·) ∧ x.list.length = min 8 x.count
    ∧ (∀ b ∈ x.list, boundarySource t live b.position = some (b.source, b.twinInUse) ∧ live b.source)
    ∧ x.absorbed.Pairwise (· < ·) ∧ ∀ p ∈ x.absorbed, boundarySource t live p = none)
  ∧ ∀ (t : Tables) (live : Nat → Bool) (z : Nat) (r : NodeRec) (x : Topology), t.inRange → t.failure = none →
    t.position? z = some r → x = topologyOf t live z →
    x.position = z
    ∧ (∀ u twin, boundarySource t live z = some (u, twin) → x.source = some u ∧ x.twinInUse = twin ∧ x.host = none
      ∧ x.evaluability = if 8 < x.count then .boundaryOverflow else .evaluable)
    ∧ (boundarySource t live z = none → x.source = none ∧ x.twinInUse = false)
    ∧ (boundarySource t live z = none → r.role = .head → x.evaluability = .headLost ∧ x.host = none)
    ∧ (boundarySource t live z = none → r.role = .node →
      x.evaluability = .absorbed ∧ x.count = 0 ∧ x.list = [] ∧ x.absorbed = []
      ∧ ∀ q y, r.parent = some q → t.position? q = some y → x.host =
        if (boundarySource t live q).isSome ∨ y.role = .head then some q else (topologyOf t live q).host)
    ∧ ((boundarySource t live z).isSome ∨ r.role = .head →
      (∃ found : List Boundary, (found.map (·.position)).Pairwise (· < ·)
        ∧ (∀ b, b ∈ found ↔ Examined t live z b.position
            ∧ boundarySource t live b.position = some (b.source, b.twinInUse))
        ∧ x.count = found.length ∧ x.list = found.take 8)
      ∧ ∀ c, c ∈ x.absorbed ↔ Examined t live z c ∧ boundarySource t live c = none)

/-- A recomputation of a feeder (R12, R14, R15). Each zone of the feeder, whatever its state, gets the topology record of the
tree and the node states as they stand; its three reseed marks are set exactly where its upstream source or its set of
boundary sources differs, its evidence and all else of it kept; no other zone changes. The zones whose evaluability differs
are then handed off, one at a time and ascending, with the new value. Nothing but what a hand-off may change is touched. That
the marks of TRIPPED and LOCKOUT zones are set too is the model's choice, log entry 19. -/
def Obligations.RecomputationReplacesMarksAndHandsOff : Prop :=
  ∀ (s : State) (f : Fin 4), s.OutsideZones (s.recompute f)
    ∧ ∃ (u : State) (offs : List (Nat × Evaluability)),
      s.recompute f = offs.foldl (fun t off => t.handOff off.1 off.2) u
      ∧ (offs.map Prod.fst).Pairwise (· < ·)
      ∧ (∀ z new, (z, new) ∈ offs ↔ z ∈ s.active.zonesOf f ∧ new = (topologyOf s.active s.isLive z).evaluability
        ∧ ∃ x, s.zone? z = some x ∧ x.topo.evaluability ≠ new)
      ∧ u = { s with zones := u.zones }
      ∧ (∀ z, z ∉ s.active.zonesOf f → u.zone? z = s.zone? z)
      ∧ ∀ z x new, z ∈ s.active.zonesOf f → s.zone? z = some x → new = topologyOf s.active s.isLive z →
        (x.topo.source = new.source →
            (∀ n, n ∈ x.topo.list.map (·.source) ↔ n ∈ new.list.map (·.source)) →
          u.zone? z = some { x with topo := new })
        ∧ (x.topo.source ≠ new.source ∨ ¬(∀ n, n ∈ x.topo.list.map (·.source) ↔ n ∈ new.list.map (·.source)) →
          u.zone? z = some { x with
            topo := new, eval := { x.eval with perPhase := x.eval.perPhase.map fun e => { e with reseed := true } } })

/-- A hand-off (R87, R91, R96, R97, R99, R100) moves the zone by its state and the new evaluability, raises its verdict, and
leaves every other zone and the lines alone; a TRIPPED or LOCKOUT zone holds it. A zone proof pending for a zone that leaves
NORMAL or SUSPECT is abandoned, and any other proof stands; the capture unit is asked only at a restore into SUSPECT. What
stays of the proof record while a completion waits is the model's choice, log entry 11. -/
def Obligations.HandOffMovesTheZone : Prop :=
  ∀ (s t : State) (z : Nat) (x : Zone) (r : NodeRec) (new : Evaluability),
    s.zone? z = some x → s.active.position? z = some r → t = s.handOff z new →
    (x.isTripped → t = s)
    ∧ (x.run.state ≠ .tripped → x.run.state ≠ .lockout → x.run.state ≠ .absorbed → new = .absorbed →
      t.zone? z = some { x with
          run := { x.run with
            state := .absorbed, reason := none, stepDeadline := none, wouldTrip := false, graceDeadline := none }
          eval := { x.eval with evidence := 0 } }
        ∧ ∃ e ∈ t.verdicts, e.zone = z ∧ e.kind = .absorbed)
    ∧ (∀ reason, degradeReason new = some reason → (x.run.state = .normal ∨ x.run.state = .suspect ∨ x.run.state = .absorbed) →
      t.zone? z = some { x with
          run := { x.run with
            state := .degraded
            reason := some reason
            stepDeadline := none
            wouldTrip := false
            graceDeadline := if (s.profile z).lossAction = .safeTrip then some (after s.now (s.profile z).degradeGrace)
              else x.run.graceDeadline } }
        ∧ ∃ e ∈ t.verdicts, e.zone = z ∧ e.kind = .degraded ∧ e.reason = some reason)
    ∧ (∀ reason, degradeReason new = some reason → x.run.state = .degraded →
      t.zone? z = some { x with run := { x.run with reason := some reason } }
        ∧ ∃ e ∈ t.verdicts, e.zone = z ∧ e.kind = .degraded ∧ e.reason = some reason)
    ∧ (x.run.state = .absorbed → new = .evaluable →
      t.zone? z = some { x with run := { x.run with state := .normal, reason := none }, eval := x.eval.markReseed }
        ∧ ∃ e ∈ t.verdicts, e.zone = z ∧ e.kind = .restored)
    ∧ (x.run.state = .degraded → new = .evaluable →
      t.zone? z = some { x with
          run := if (s.profile z).tSuspect ≤ x.eval.evidence then
              { x.run with
                state := .suspect
                reason := none
                stepDeadline := some (after s.now (s.profile z).stepTime)
                wouldTrip := false
                graceDeadline := none }
            else { x.run with state := .normal, reason := none, graceDeadline := none } }
        ∧ ∃ e ∈ t.verdicts, e.zone = z ∧ e.kind = .restored)
    ∧ State.OutsideZones s t ∧ t.lines = s.lines ∧ (∀ y, y ≠ z → t.zone? y = s.zone? y)
    ∧ (s.proof.state ≠ .zonePending ∨ s.proof.target ≠ some z ∨ new = .evaluable → t.proof = s.proof)
    ∧ (∀ g, s.proof.state = .zonePending → s.proof.target = some z → s.proof.kind = some .proveZone →
      s.proof.tag = some g → (x.run.state = .normal ∨ x.run.state = .suspect) → new ≠ .evaluable →
      t.proof = { s.proof with
        state := .completionWaiting, pulseDeadline := none, held := some ⟨0x38, g, .abandoned, []⟩ })
    ∧ (x.run.state = .degraded → new = .evaluable → (s.profile z).tSuspect ≤ x.eval.evidence →
      t.slots = (s.raiseTrigger r.feeder .suspect (some z)).slots
        ∧ t.missed = (s.raiseTrigger r.feeder .suspect (some z)).missed)
    ∧ (x.run.state ≠ .degraded ∨ new ≠ .evaluable ∨ x.eval.evidence < (s.profile z).tSuspect →
      t.slots = s.slots ∧ t.missed = s.missed)

/-! ## The feeder evaluation -/

/-- FEEDER_EVALUATION_EXPIRY (R61, R62, R64, R78, R79, R84, R89). The requested mode becomes effective and the trip counts of
the feeder's zones are lowered to the lockout limits of their active profiles; a pending dry proof of the feeder has its
shadow evaluation; the deadline is set from now; then each zone of the feeder is evaluated and its outcome taken, each as it
would be alone, in ascending order; a completion reply joins the queue where there is room. With no zone proof pending no
other feeder's zone and nothing outside the zones changes, a zone that is not selected changes in its trip count alone, a
selected one has its evaluation record evaluated with its active profile, and one that confirms counts the trip, enters
TRIPPED or LOCKOUT, raises that verdict and asserts the DIRECT lines it names. Before the deadline nothing happens. That last
clause is the model's choice, log entry 1, and so is the place of the completion reply, log entry 14. -/
def Obligations.FeederExpiryLatchesArmsAndEvaluates : Prop :=
  ∀ (s : State) (f : Fin 4) (mode : Mode) (limit : NodeRec → Nat), mode = (s.feeders.get f).requested →
    (∀ r, limit r = (s.active.zoneProfile (profileNumber mode r)).lockoutLimit) →
    (due s.now (s.feeders.get f).deadline → ∃ u w t : State,
      u = { s with feeders := s.feeders.set f ⟨(s.feeders.get f).deadline, mode, mode⟩, zones := u.zones }
      ∧ (∀ z, z ∉ s.active.zonesOf f → u.zone? z = s.zone? z)
      ∧ (∀ z r, z ∈ s.active.zonesOf f → s.active.node? z = some r →
        u.zone? z = (s.zone? z).map fun x => { x with run := { x.run with trips := min x.run.trips (limit r) } })
      ∧ w = { u.shadowEvaluation f with
          feeders := s.feeders.set f ⟨some (after s.now (s.active.header.periods.get f)), mode, mode⟩ }
      ∧ (s.proof.state ≠ .zonePending → u.shadowEvaluation f = u)
      ∧ t = ((s.active.zonesOf f).foldl State.evaluateZone w).flushHeld
      ∧ (s.active.zonesOf f).Pairwise (· < ·)
      ∧ exec (.feederEvaluationExpiry f) s = .next t
      ∧ ∀ z ∈ s.active.zonesOf f, t.zone? z = (w.evaluateZone z).zone? z)
    ∧ (due s.now (s.feeders.get f).deadline → s.proof.state ≠ .zonePending → s.canFlush = false →
      ∃ t, exec (.feederEvaluationExpiry f) s = .next t
        ∧ State.OutsideZones
            { s with feeders := s.feeders.set f ⟨some (after s.now (s.active.header.periods.get f)), mode, mode⟩ } t
        ∧ (∀ z, z ∉ s.active.zonesOf f → t.zone? z = s.zone? z)
        ∧ ∀ z x r, z ∈ s.active.zonesOf f → s.zone? z = some x → s.active.node? z = some r →
          ∃ y, t.zone? z = some y ∧ y.topo = x.topo
            ∧ (x.selected = false → y = { x with run := { x.run with trips := min x.run.trips (limit r) } })
            ∧ ∀ u p trips, x.topo.source = some u → x.selected → p = s.active.zoneProfile (profileNumber mode r) →
              trips = min (limit r) (x.run.trips + 1) →
              y.eval = x.eval.evaluate p x.run.state s.now (s.inputs x u)
              ∧ (p.tConfirm ≤ y.eval.evidence → mode ≠ .inhibited →
                y.run = ⟨if limit r ≤ trips then .lockout else .tripped, some .evidence, trips, none, false, none, none⟩
                ∧ (∃ v ∈ t.verdicts, v.zone = z ∧ v.evidence = y.eval.evidence
                    ∧ v.kind = if limit r ≤ trips then .lockout else .trip)
                ∧ ∀ l, r.namesLine l → s.active.header.policies.get l = .direct → t.lines.get l = true))
    ∧ (due s.now (s.feeders.get f).deadline = false → exec (.feederEvaluationExpiry f) s = .next s)

/-- The outcome of an evaluation, by the zone's state, its new evidence and the feeder's mode (R79, R85 to R87, R89, R90,
R100): a confirm counts the trip, locks out at the limit, raises its verdict, asserts the DIRECT lines the zone names,
raises the TRIP trigger and abandons a proof pending for the zone; in INHIBITED it raises WOULD_TRIP once; below T_confirm a
NORMAL zone is suspected from T_suspect on, and a SUSPECT one returns to NORMAL at evidence 0 alone. Every entry to SUSPECT
raises the SUSPECT trigger, and nothing else reaches the capture unit or the proof record. What stays of that record while a
completion waits is the model's choice, log entry 11. -/
def Obligations.EvidenceDecidesTheZone : Prop :=
  ∀ (s t : State) (z u : Nat) (x : Zone) (r : NodeRec) (p : ZoneProfile) (e : Evaluation) (mode : Mode) (trips : Nat),
    s.zone? z = some x → s.active.position? z = some r → x.topo.source = some u → x.selected → p = s.profile z →
    e = x.eval.evaluate p x.run.state s.now (s.inputs x u) → mode = (s.feeders.get r.feeder).effective →
    trips = min p.lockoutLimit (x.run.trips + 1) → t = s.evaluateZone z →
    (p.tConfirm ≤ e.evidence → mode ≠ .inhibited →
      t.zone? z = some { x with
          eval := e
          run := ⟨if p.lockoutLimit ≤ trips then .lockout else .tripped, some .evidence, trips, none, false, none, none⟩ }
        ∧ (∃ v ∈ t.verdicts, v.zone = z ∧ v.evidence = e.evidence
            ∧ v.kind = if p.lockoutLimit ≤ trips then .lockout else .trip)
        ∧ (∀ l, r.namesLine l → s.active.header.policies.get l = .direct → t.lines.get l = true)
        ∧ t.slots = (s.raiseTrigger r.feeder .trip (some z)).slots
        ∧ t.missed = (s.raiseTrigger r.feeder .trip (some z)).missed
        ∧ (s.proof.state ≠ .zonePending ∨ s.proof.target ≠ some z →
          t.proof = { s.proof with takenOver := t.proof.takenOver })
        ∧ ∀ g, s.proof.state = .zonePending → s.proof.target = some z → s.proof.kind = some .proveZone →
          s.proof.tag = some g → t.proof = { s.proof with
            state := .completionWaiting, pulseDeadline := none, held := some ⟨0x38, g, .abandoned, []⟩ })
    ∧ (p.tConfirm ≤ e.evidence → mode = .inhibited →
      t.zone? z = some { x with
          eval := e
          run := if x.run.state = .normal then
              { x.run with
                state := .suspect, reason := none, stepDeadline := some (after s.now p.stepTime), wouldTrip := true }
            else { x.run with wouldTrip := true } }
        ∧ t.lines = s.lines
        ∧ (x.run.state = .suspect → x.run.wouldTrip → t.verdicts = s.verdicts)
        ∧ (x.run.state = .normal ∨ x.run.wouldTrip = false → ∃ v ∈ t.verdicts, v.zone = z ∧ v.kind = .wouldTrip))
    ∧ (e.evidence < p.tConfirm → t.verdicts = s.verdicts ∧ t.lines = s.lines
      ∧ (x.run.state = .normal → p.tSuspect ≤ e.evidence →
        t.zone? z = some { x with
          eval := e
          run := { x.run with
            state := .suspect, reason := none, stepDeadline := some (after s.now p.stepTime), wouldTrip := false } })
      ∧ (x.run.state = .normal → e.evidence < p.tSuspect → t.zone? z = some { x with eval := e })
      ∧ (x.run.state = .suspect → 0 < e.evidence → t.zone? z = some { x with eval := e })
      ∧ (x.run.state = .suspect → e.evidence = 0 →
        t.zone? z = some { x with
          eval := e
          run := { x.run with state := .normal, reason := none, stepDeadline := none, wouldTrip := false } }))
    ∧ (e.evidence < p.tConfirm ∨ mode = .inhibited → t.proof = s.proof
      ∧ (x.run.state = .normal → p.tSuspect ≤ e.evidence ∨ p.tConfirm ≤ e.evidence →
        t.slots = (s.raiseTrigger r.feeder .suspect (some z)).slots
          ∧ t.missed = (s.raiseTrigger r.feeder .suspect (some z)).missed)
      ∧ (x.run.state = .suspect ∨ (e.evidence < p.tSuspect ∧ e.evidence < p.tConfirm) →
        t.slots = s.slots ∧ t.missed = s.missed))

/-- The five indications of an evaluation, found only on a phase whose upstream is live (R11, R69 to R74, R76). OPEN: with
an empty list, a single-phase drop of the upstream unit; with voltage sensing above and somewhere below, a ratio of the
voltages at or below the profile's; else a single-phase drop of the boundary unit whose drop is highest, the first of
equals. LEAK: the excess at the leak threshold. ARC: the arc flag above, and none below. MOTION: a motion hold of a unit of
the covered set, the zone's position, its boundaries and its absorbed members, each with its twin. LOST: the loss record
running, and the upstream drop at its limit. The units are read as their records stand (R64). -/
def Obligations.IndicationsFollowTheirTests : Prop :=
  (∀ (e : Evaluation) (p : ZoneProfile) (was : ZoneState) (now : Time) (ins : ZoneInputs) (ph : Phase) (y : PhaseEval)
      (single : UnitView → Prop),
    y = (e.evaluate p was now ins).perPhase.get ph →
    (∀ d, single d ↔ p.dEnd ≤ dropRatio d.iMin (d.channels.get ph)
      ∧ ∀ q, q ≠ ph → dropRatio d.iMin (d.channels.get q) < p.dEnd / 4) →
    (upstreamLive p ins.up ph = false → y.indications = .none)
    ∧ (upstreamLive p ins.up ph = true →
      (ins.down = [] → (y.indications.open_ = true ↔ single ins.up))
      ∧ (ins.down ≠ [] → ins.up.sensing = true → (∃ d ∈ ins.down, d.sensing = true) →
        (y.indications.open_ = true ↔ ∃ d ∈ ins.down, d.sensing = true
          ∧ min 1000 (1000 * (d.channels.get ph).vLast / (ins.up.channels.get ph).vLast) ≤ p.rhoOpen))
      ∧ (ins.down ≠ [] → ins.up.sensing = false ∨ (∀ d ∈ ins.down, d.sensing = false) →
        (y.indications.open_ = true ↔ ∃ before d rest, ins.down = before ++ d :: rest ∧ single d
          ∧ (∀ b ∈ before, dropRatio b.iMin (b.channels.get ph) < dropRatio d.iMin (d.channels.get ph))
          ∧ ∀ b ∈ rest, dropRatio b.iMin (b.channels.get ph) ≤ dropRatio d.iMin (d.channels.get ph)))
      ∧ (y.indications.leak = true ↔ (p.leakThreshold : Int) ≤ y.excess)
      ∧ (y.indications.arc = true ↔ (ins.up.channels.get ph).arcFlag = true
        ∧ ∀ d ∈ ins.down, (d.channels.get ph).arcFlag = false)
      ∧ (y.indications.motion = true ↔ ins.motion.get ph = true)
      ∧ (y.indications.lost = true ↔ ins.lossRunning = true
        ∧ p.dLost ≤ dropRatio ins.up.iMin (ins.up.channels.get ph))))
  ∧ ∀ (s : State) (x : Zone) (u : Nat) (r : NodeRec) (n : NodeRun) (ins : ZoneInputs),
    s.active.node? u = some r → s.node? u = some n → ins = s.inputs x u →
    ins.up = ⟨r.voltageSensing, (s.active.profileOf r).iMin, n.channels⟩
    ∧ ins.down.length = x.topo.list.length
    ∧ (∀ (k : Nat) (b : Boundary) (q : NodeRec) (m : NodeRun), x.topo.list[k]? = some b →
      s.active.node? b.source = some q → s.node? b.source = some m →
      ins.down[k]? = some ⟨q.voltageSensing, (s.active.profileOf q).iMin, m.channels⟩)
    ∧ (∀ ph, ins.motion.get ph = true ↔ ∃ c i m,
      (c = x.topo.position ∨ (∃ b ∈ x.topo.list, b.position = c) ∨ c ∈ x.topo.absorbed)
      ∧ (i = c ∨ s.active.twinOf c = some i) ∧ s.node? i = some m ∧ (m.motionHold.get ph).isSome = true)
    ∧ (ins.lossRunning = true ↔ x.eval.lossRecord.isSome = true)

/-- An evaluation, phase by phase (R66 to R68, R77, R78). The upstream is live by its voltage where it is sensed, else by its
current. The residual is the current above less the currents below, clamped, and the excess what it exceeds the baseline by,
live or not. Where the upstream is not live nothing is found, and baseline and reseed mark stand; a marked phase takes the
residual as its baseline and loses the mark; else a NORMAL zone learns its share of the difference and a SUSPECT one nothing.
A phase scores the weights of the indications found on it; the zone score is the largest, the faulted phase the first, in the
order A, B, C, that has it, none at 0; evidence gains the score up to 255, or decays. -/
def Obligations.PhasesScoreAndEvidenceMoves : Prop :=
  ∀ (e t : Evaluation) (p : ZoneProfile) (was : ZoneState) (now : Time) (ins : ZoneInputs), t = e.evaluate p was now ins →
    (∀ ph, upstreamLive p ins.up ph = true ↔
      (ins.up.sensing = true ∧ p.vLive ≤ (ins.up.channels.get ph).vLast)
      ∨ (ins.up.sensing = false ∧ ins.up.iMin ≤ (ins.up.channels.get ph).iFast16 / 16))
    ∧ (∀ ph x y, x = e.perPhase.get ph → y = t.perPhase.get ph →
      (∀ above below : Nat, above = (ins.up.channels.get ph).iFast16 / 16 →
        below = (ins.down.map fun d => (d.channels.get ph).iFast16 / 16).sum →
        y.residual = max (-32768) (min 32767 ((above : Int) - (below : Int))))
      ∧ y.excess = y.residual - y.baseline
      ∧ (upstreamLive p ins.up ph = false → y.indications = .none ∧ y.score = 0 ∧ y.baseline = x.baseline
        ∧ y.reseed = x.reseed)
      ∧ (upstreamLive p ins.up ph = true → y.reseed = false
        ∧ (x.reseed = true → y.baseline = y.residual ∧ y.excess = 0)
        ∧ (x.reseed = false → was = .normal →
          y.baseline = x.baseline + Int.tdiv (y.residual - x.baseline) (2 ^ p.kb))
        ∧ (x.reseed = false → was = .suspect → y.baseline = x.baseline))
      ∧ y.score = (if y.indications.open_ then p.weights.open_ else 0) + (if y.indications.leak then p.weights.leak else 0)
        + (if y.indications.arc then p.weights.arc else 0) + (if y.indications.motion then p.weights.motion else 0)
        + (if y.indications.lost then p.weights.lost else 0))
    ∧ (∀ ph, (t.perPhase.get ph).score ≤ t.score) ∧ (∃ ph, (t.perPhase.get ph).score = t.score)
    ∧ (t.faulted = none ↔ t.score = 0)
    ∧ (∀ ph, t.faulted = some ph ↔ 0 < t.score ∧ (t.perPhase.get ph).score = t.score
      ∧ (ph ≠ .a → t.perPhase.a.score < t.score) ∧ (ph = .c → t.perPhase.b.score < t.score))
    ∧ (0 < t.score → t.evidence = min 255 (e.evidence + t.score))
    ∧ (t.score = 0 → t.evidence = max 0 (e.evidence - p.decay))
    ∧ t.lossRecord = e.lossRecord ∧ t.lastEvaluation = some now

/-! ## Timers -/

/-- STEP_TIMER_EXPIRY, TRIP_MEMORY_EXPIRY, LOSS_RECORD_EXPIRY and MOTION_HOLD_EXPIRY (R37, R75, R88, R95): the reached
deadline becomes none; the step timer of a SUSPECT zone raises ADVISORY, the trip memory sets the trip count to 0; nothing
else changes. A deadline that is none or not reached, or a step deadline outside SUSPECT, or a grace deadline that is none,
not reached or outside DEGRADED, does nothing. That last clause is the model's choice, log entry 1. -/
def Obligations.TimersRunOut : Prop :=
  (∀ (s : State) (z : Nat) (x : Zone) (r : NodeRec), s.zone? z = some x → s.active.position? z = some r →
      (due s.now x.run.stepDeadline → x.run.state = .suspect →
        ∃ t, exec (.stepTimerExpiry z) s = .next t ∧ t = { s with zones := t.zones, verdicts := t.verdicts }
          ∧ t.zone? z = some { x with run := { x.run with stepDeadline := none } }
          ∧ (∀ y, y ≠ z → t.zone? y = s.zone? y)
          ∧ (∃ v ∈ t.verdicts, v.zone = z ∧ v.kind = .advisory ∧ v.raised = s.now)
          ∧ ∀ v : VerdictEntry, v.zone ≠ z → (v ∈ t.verdicts ↔ v ∈ s.verdicts))
      ∧ (due s.now x.run.stepDeadline = false ∨ x.run.state ≠ .suspect → exec (.stepTimerExpiry z) s = .next s)
      ∧ (due s.now x.run.memoryDeadline →
        ∃ t, exec (.tripMemoryExpiry z) s = .next t ∧ t = { s with zones := t.zones }
          ∧ t.zone? z = some { x with run := { x.run with trips := 0, memoryDeadline := none } }
          ∧ ∀ y, y ≠ z → t.zone? y = s.zone? y)
      ∧ (due s.now x.run.memoryDeadline = false → exec (.tripMemoryExpiry z) s = .next s)
      ∧ (due s.now x.eval.lossRecord →
        ∃ t, exec (.lossRecordExpiry z) s = .next t ∧ t = { s with zones := t.zones }
          ∧ t.zone? z = some { x with eval := { x.eval with lossRecord := none } }
          ∧ ∀ y, y ≠ z → t.zone? y = s.zone? y)
      ∧ (due s.now x.eval.lossRecord = false → exec (.lossRecordExpiry z) s = .next s)
      ∧ (due s.now x.run.graceDeadline = false ∨ x.run.state ≠ .degraded → exec (.graceExpiry z) s = .next s))
  ∧ (∀ (s : State) (i : Nat) (n : NodeRun) (ph : Phase), s.node? i = some n →
      (due s.now (n.motionHold.get ph) →
        ∃ t m, exec (.motionHoldExpiry i ph) s = .next t ∧ t = { s with nodes := t.nodes } ∧ t.node? i = some m
          ∧ m = { n with motionHold := m.motionHold } ∧ m.motionHold.get ph = none
          ∧ (∀ q, q ≠ ph → m.motionHold.get q = n.motionHold.get q) ∧ ∀ j, j ≠ i → t.node? j = s.node? j)
      ∧ (due s.now (n.motionHold.get ph) = false → exec (.motionHoldExpiry i ph) s = .next s))

/-- GRACE_EXPIRY (R98): a DEGRADED zone enters TRIPPED with reason BLIND, its trip count kept, raises TRIP and recomputes
the lines; no slot is taken, and no other zone changes. -/
def Obligations.GraceExpiryTripsBlind : Prop :=
  ∀ (s : State) (z : Nat) (x : Zone) (r : NodeRec), s.zone? z = some x → s.active.position? z = some r →
    due s.now x.run.graceDeadline → x.run.state = .degraded →
      ∃ t, exec (.graceExpiry z) s = .next t ∧ State.OutsideZones s t ∧ t.slots = s.slots ∧ t.missed = s.missed
        ∧ t.zone? z = some { x with run := { x.run with
            state := .tripped, reason := some .blind, graceDeadline := none, memoryDeadline := none } }
        ∧ (∀ y, y ≠ z → t.zone? y = s.zone? y)
        ∧ (∃ v ∈ t.verdicts, v.zone = z ∧ v.kind = .trip ∧ v.reason = some .blind) ∧ t.LinesFollow

/-! ## Verdicts and lines -/

/-- A raise (R106 to R108): a zone without an unsent entry gets one at the tail, a zone with one has it updated in place,
with the kind added to its history; the other fields are the zone's as they stand, and only the queue changes. -/
def Obligations.RaiseCoalescesIntoOneEntry : Prop :=
  ∀ (s t : State) (z : Nat) (r : NodeRec) (x : Zone) (kind : VerdictKind) (v : VerdictEntry),
    s.zone? z = some x → s.active.position? z = some r → t = s.raise z kind →
    v = { zone := z
          address := r.address
          feeder := r.feeder
          kind := kind
          history := kind.bit
          state := x.run.state
          faulted := x.eval.faulted
          indications := match x.eval.faulted with
            | none => .none
            | some ph => (x.eval.perPhase.get ph).indications
          evidence := x.eval.evidence
          trips := x.run.trips
          reason := x.run.reason
          raised := s.now } →
    t = { s with verdicts := t.verdicts }
    ∧ ((∀ e ∈ s.verdicts, e.zone ≠ z) → t.verdicts = s.verdicts ++ [v])
    ∧ ∀ (before rest : List VerdictEntry) (e : VerdictEntry), s.verdicts = before ++ e :: rest → e.zone = z →
      (∀ q ∈ before, q.zone ≠ z) → t.verdicts = before ++ { v with history := e.history ||| v.history } :: rest

/-- A recomputation of the lines (R112 to R114, R117, R178): a line is asserted exactly when its policy condition holds,
DIRECT on demand and BACKUP on demand with the controller ABSENT, or a proof pulse runs on it; demand is a zone in TRIPPED or
LOCKOUT whose trip mask names the line. The taken-over mark of the proof is set where the policy condition of the line under
the pulse holds, and never cleared; nothing else changes. -/
def Obligations.LineIsAssertedByPolicyOrPulse : Prop :=
  ∀ (s : State) (l : Fin 4) (demand : Prop),
    (demand ↔ ∃ z r x part, s.active.position? z = some r ∧ s.zone? z = some x
      ∧ (x.run.state = .tripped ∨ x.run.state = .lockout) ∧ r.zonePart = some part ∧ part.tripMask.getLsbD l) →
    (s.policyCondition l = true ↔
      (s.active.header.policies.get l = .direct ∧ demand)
        ∨ (s.active.header.policies.get l = .backup ∧ demand ∧ s.presence = .absent))
    ∧ (s.recomputeLines.lines.get l = true ↔
      (s.active.header.policies.get l = .direct ∧ demand)
        ∨ (s.active.header.policies.get l = .backup ∧ demand ∧ s.presence = .absent)
        ∨ (s.proof.state = .pulseRunning ∧ s.proof.target = some l.val))
    ∧ s.recomputeLines = { s with
        lines := s.recomputeLines.lines
        proof := { s.proof with takenOver := s.recomputeLines.proof.takenOver } }
    ∧ (s.recomputeLines.proof.takenOver = true ↔ s.proof.takenOver = true
      ∨ ∃ k : Fin 4, s.proof.state = .pulseRunning ∧ s.proof.target = some k.val ∧ s.policyCondition k = true)

/-! ## Presence and transmission -/

/-- PRESENCE_UPDATE and CONTROLLER_SILENCE_EXPIRY (R115, R117, R132, R178): an accepted frame moves the deadline to now plus
the silence limit and makes the controller PRESENT, its silence makes it ABSENT without a deadline; the lines, and with them
the taken-over mark of a running pulse, are recomputed where presence changes and stand where it does not. The limit is that
of the ACTIVE header at the frame's acceptance, so that the presence update and a routing, taken in either order, leave one
presence and one deadline (R128) and a limit changed by ACTIVATE acts at the next accepted frame (R138, R161); that reading
is the model's, log entry 21. An event with nothing due changes nothing, by the model's choice, log entries 1 and 4. -/
def Obligations.PresenceFollowsFramesAndSilence : Prop :=
  ∀ s : State,
    (∀ limit rest t, s.awaitingPresence = limit :: rest →
      t = { s with
        presence := .present
        presenceDeadline := some (after s.now limit)
        awaitingPresence := rest } →
      (s.presence = .present → exec .presenceUpdate s = .next t)
      ∧ (s.presence = .absent → exec .presenceUpdate s = .next t.recomputeLines ∧ t.recomputeLines.LinesFollow))
    ∧ (∀ limit rest t u v w, s.awaitingPresence = limit :: rest →
      exec .presenceUpdate s = .next t → exec .controllerFrameRouting t = .next u →
      exec .controllerFrameRouting s = .next v → exec .presenceUpdate v = .next w →
      u.presence = w.presence ∧ u.presenceDeadline = w.presenceDeadline)
    ∧ (s.awaitingPresence = [] → exec .presenceUpdate s = .next s)
    ∧ (∀ t, due s.now s.presenceDeadline → t = { s with presence := .absent, presenceDeadline := none } →
      exec .controllerSilenceExpiry s = .next t.recomputeLines ∧ t.recomputeLines.LinesFollow)
    ∧ (due s.now s.presenceDeadline = false → exec .controllerSilenceExpiry s = .next s)

/-- The four transmission events (R109, R121, R129 to R131, R167). The controller-port transmitter, idle or just done, takes
the oldest verdict, else the oldest reply, whose place a held completion reply takes, else the oldest forwarded frame
unchanged, else is idle; an engine frame carries its address, the sequence counter, which advances, and the entry's fields.
The sensor-port transmitter takes the oldest frame of its queue, byte for byte, or is idle. Nothing else changes. A start at
a busy transmitter and an end at an idle one change nothing, and a queued completion leaves the whole proof record empty, by
the model's choice, log entries 1 and 11. -/
def Obligations.TransmittersServeTheirQueues : Prop :=
  (∀ (s : State) (c : Instr),
      (c = .controllerTxStart ∧ s.controllerTx = none ∨ c = .controllerTxEnd ∧ s.controllerTx ≠ none →
        (∀ v rest, s.verdicts = v :: rest →
          exec c s = .next { s with
            verdicts := rest
            sequence := s.sequence + 1
            controllerTx := some (buildFrame 0x42 s.address s.sequence
              [byteOf v.zone, v.address, byteOf v.feeder, v.kind.code, v.history, v.state.code, faultedCode v.faulted,
               v.indications.mask, byteOf v.evidence, byteOf v.trips, reasonCode v.reason, v.raised.extractLsb' 24 8,
               v.raised.extractLsb' 16 8, v.raised.extractLsb' 8 8, v.raised.extractLsb' 0 8]).bytes })
        ∧ (∀ r rest, s.verdicts = [] → s.replies = r :: rest → s.proof.state ≠ .completionWaiting →
          exec c s = .next { s with
            replies := rest
            sequence := s.sequence + 1
            controllerTx := some (buildFrame 0x41 s.address s.sequence (r.code :: r.tag :: r.status.code :: r.data)).bytes })
        ∧ (∀ r rest h, s.verdicts = [] → s.replies = r :: rest → rest.length < 4 → s.proof.state = .completionWaiting →
          s.proof.held = some h →
          exec c s = .next { s with
            replies := rest ++ [h]
            proof := .idle
            sequence := s.sequence + 1
            controllerTx := some (buildFrame 0x41 s.address s.sequence (r.code :: r.tag :: r.status.code :: r.data)).bytes })
        ∧ (∀ f rest, s.verdicts = [] → s.replies = [] → s.forwardFifo = f :: rest →
          exec c s = .next { s with forwardFifo := rest, controllerTx := some f.bytes })
        ∧ (s.verdicts = [] → s.replies = [] → s.forwardFifo = [] → exec c s = .next { s with controllerTx := none }))
      ∧ (c = .controllerTxStart ∧ s.controllerTx ≠ none ∨ c = .controllerTxEnd ∧ s.controllerTx = none → exec c s = .next s))
  ∧ (∀ (s : State) (c : Instr),
      (c = .sensorTxStart ∧ s.sensorTx = none ∨ c = .sensorTxEnd ∧ s.sensorTx ≠ none →
        (∀ f rest, s.sensorQueue = f :: rest →
          exec c s = .next { s with sensorQueue := rest, sensorTx := some f.bytes })
        ∧ (s.sensorQueue = [] → exec c s = .next { s with sensorTx := none }))
      ∧ (c = .sensorTxStart ∧ s.sensorTx ≠ none ∨ c = .sensorTxEnd ∧ s.sensorTx = none → exec c s = .next s))

/-- CONTROLLER_FRAME_ROUTING (R128, R165): a MANAGE frame for this engine is taken by the management unit within the event,
as the command its code names; every other frame joins the sensor-port transmit queue, or is dropped and counted at a full
one; with no frame due nothing happens. What is due, and a command taken as one event, are the model's choice, log entries
1, 4 and 6. -/
def Obligations.RoutingTakesCommandsAndQueuesTheRest : Prop :=
  ∀ (s : State),
    (∀ (f : Frame) (rest : List Frame), s.awaitingRouting = f :: rest →
      (∀ code tag params, f.kind = 0x40 → f.address = 248 + s.strap.setWidth 8 → f.payload = code :: tag :: params →
        exec .controllerFrameRouting s = exec (commandOf code tag params) { s with awaitingRouting := rest })
      ∧ (f.kind ≠ 0x40 ∨ f.address ≠ 248 + s.strap.setWidth 8 → s.sensorQueue.length < 16 →
        exec .controllerFrameRouting s
          = .next { s with awaitingRouting := rest, sensorQueue := s.sensorQueue ++ [f] })
      ∧ (f.kind ≠ 0x40 ∨ f.address ≠ 248 + s.strap.setWidth 8 → 16 ≤ s.sensorQueue.length →
        exec .controllerFrameRouting s
          = .next { s with
              awaitingRouting := rest
              counters := { s.counters with controller := s.counters.controller.gainDrops } }))
    ∧ (s.awaitingRouting = [] → exec .controllerFrameRouting s = .next s)

/-! ## Management commands -/

/-- Each command is answered by exactly one REPLY, or discarded (R165, R167, R168, R179): with a full reply queue any
command changes the discard counter alone; with room the command's REPLY joins the tail, followed by at most one completion
the event made; RESTART ENGINE may empty the queue first and add its notice. That a command is taken by itself is the
model's choice, log entry 6. -/
def Obligations.EveryCommandIsAnsweredOnceOrDiscarded : Prop :=
  ∀ (s : State) (code tag : Byte) (params : List Byte),
    (4 ≤ s.replies.length →
      exec (commandOf code tag params) s
        = .next { s with counters := { s.counters with discards := min 4294967295 (s.counters.discards + 1) } })
    ∧ (s.CanTake →
      ∃ t status data, exec (commandOf code tag params) s = .next t
        ∧ (code ≠ 0x3F → ∃ more, t.replies = s.replies ++ ⟨code, tag, status, data⟩ :: more ∧ more.length ≤ 1
            ∧ ∀ r ∈ more, r.status = .abandoned ∨ r.status = .cancelled)
        ∧ (code = 0x3F → t.replies = s.replies ++ [⟨code, tag, status, data⟩]
            ∨ t.replies = [⟨code, tag, status, data⟩, ⟨0x00, 0, .done, [2]⟩]))

/-- The first failing check decides the answer, and a refusal changes nothing but the reply queue (R121, R166): an unlisted
code; a command that needs tables while UNCONFIGURED, before its parameters; a wrong size, in either engine state for a
command that is taken in it; an index out of range; an index that names no record, or a TWIN where a zone is named. -/
def Obligations.RefusalsFollowTheOrderOfChecks : Prop :=
  ∀ (s : State) (code tag : Byte) (params : List Byte) (needsTables : Prop), s.CanTake →
    (needsTables ↔ code ∈ ([0x03, 0x04, 0x05, 0x08, 0x21, 0x22, 0x23, 0x24, 0x30, 0x38] : List Byte)) →
    (code ∉ ([0x01, 0x02, 0x03, 0x04, 0x05, 0x06, 0x07, 0x08, 0x10, 0x11, 0x12, 0x13, 0x14, 0x15, 0x16, 0x20, 0x21, 0x22,
        0x23, 0x24, 0x30, 0x31, 0x32, 0x38, 0x39, 0x3A, 0x3F] : List Byte) →
      exec (.badCommand code tag params) s = .next (s.answer code tag .badCommand []))
    ∧ (needsTables → s.engine = .unconfigured →
      exec (commandOf code tag params) s = .next (s.answer code tag .notConfigured []))
    ∧ (∀ n : Nat, (code, n) ∈ ([(0x01, 0), (0x02, 0), (0x03, 1), (0x04, 1), (0x05, 1), (0x06, 0), (0x07, 0), (0x08, 1),
        (0x10, 18), (0x11, 14), (0x12, 32), (0x13, 27), (0x14, 0), (0x15, 3), (0x16, 0), (0x20, 2), (0x21, 1), (0x22, 1),
        (0x23, 1), (0x24, 1), (0x30, 1), (0x31, 4), (0x32, 2), (0x38, 2), (0x39, 3), (0x3A, 0), (0x3F, 1)]
          : List (Byte × Nat)) →
      s.engine = .running ∨ ¬needsTables → params.length ≠ n →
      exec (commandOf code tag params) s = .next (s.answer code tag .badParam []))
    ∧ (∀ i : Byte, s.engine = .running → params = [i] →
      (code ∈ ([0x03, 0x04, 0x05, 0x08, 0x21, 0x22, 0x23, 0x24] : List Byte) → 48 ≤ i.toNat →
        exec (commandOf code tag params) s = .next (s.answer code tag .badParam []))
      ∧ (code ∈ ([0x03, 0x05, 0x08, 0x23, 0x24] : List Byte) → i.toNat < 48 → s.active.node? i.toNat = none →
        exec (commandOf code tag params) s = .next (s.answer code tag .wrongState []))
      ∧ (code ∈ ([0x04, 0x21, 0x22] : List Byte) → i.toNat < 48 → s.active.position? i.toNat = none →
        exec (commandOf code tag params) s = .next (s.answer code tag .wrongState [])))

/-- IDENTIFY, READ STATUS and READ COUNTERS (R121, R169, R171) answer DONE with their data and change nothing but the reply
queue: the identification byte for byte, the status field by field at its offset, the fourteen counters in order. -/
def Obligations.EngineReadingsOnlyAnswer : Prop :=
  ∀ (s : State) (tag : Byte), s.CanTake →
    exec (.identify tag []) s
      = .next (s.answer 0x01 tag .done
          [0x48, 0x03, 2, 48, 4, 16, 8, 4, 4, s.strap.setWidth 8, 248 + s.strap.setWidth 8])
    ∧ (∃ data, exec (.readStatus tag []) s = .next (s.answer 0x02 tag .done data) ∧ data.length = 58
      ∧ byteAt data 0 = (if s.engine = .running then 1 else 0) ∧ byteAt data 1 = (if s.presence = .present then 1 else 0)
      ∧ (∀ f : Fin 4, byteAt data (2 + 8 * f) = (s.feeders.get f).requested.code
        ∧ byteAt data (3 + 8 * f) = (s.feeders.get f).effective.code
        ∧ ∀ st : ZoneState, byteAt data (4 + 8 * f + st.code.toNat)
            = byteOf ((s.active.zonesOf f).countP fun z => (s.zone? z).any fun x => decide (x.run.state = st)))
      ∧ (∀ l : Fin 4, byteAt data (34 + 4 * l) = (s.active.header.policies.get l).code
        ∧ byteAt data (35 + 4 * l) = (if s.demanded l then 1 else 0)
        ∧ byteAt data (36 + 4 * l)
            = (if s.proof.state = .pulseRunning ∧ s.proof.target = some l.val then 1 else 0)
        ∧ byteAt data (37 + 4 * l) = (if s.lines.get l then 1 else 0))
      ∧ byteAt data 50 = s.proof.state.code ∧ byteAt data 51 = (match s.proof.target with
        | none => 0xFF
        | some z => byteOf z)
      ∧ (∀ i : Fin 4, byteAt data (52 + i) = (s.slots.get i).state.code)
      ∧ (s.missed ≤ 65535 → u16At data 56 = s.missed))
    ∧ (∃ data, exec (.readCounters tag []) s = .next (s.answer 0x06 tag .done data) ∧ data.length = 56
      ∧ ∀ k n, [s.counters.sensor.accepted, s.counters.sensor.slips, s.counters.sensor.lengthErrors,
          s.counters.sensor.crcErrors, s.counters.sensor.drops, s.counters.controller.accepted,
          s.counters.controller.slips, s.counters.controller.lengthErrors, s.counters.controller.crcErrors,
          s.counters.controller.drops, s.counters.discards, s.counters.unknownSource, s.counters.unidentified,
          s.counters.unknownAlerts][k]? = some n → n ≤ 4294967295 → u32At data (4 * k) = n)

/-- READ NODE, READ HEALTH, READ ZONE and READ CAPTURE (R18, R41, R59, R82, R105, R121, R146, R170) answer DONE with the
records of their target, laid out as section 7 gives, and change nothing but the reply queue; READ CAPTURE refuses a slot
outside 0..3 and a count outside 0..7 with BAD-PARAM. -/
def Obligations.TargetReadingsOnlyAnswer : Prop :=
  ∀ (s : State) (tag i : Byte), s.CanTake →
    (∀ r n p, s.engine = .running → i.toNat < 48 → s.active.node? i.toNat = some r → s.node? i.toNat = some n →
      p = s.active.profileOf r →
      exec (.readNode tag [i]) s
        = .next (s.answer 0x03 tag .done
            ([i, r.address, n.state.code, barReasonCode n.barReason] ++ wideByte n.unitClass ++ wideByte n.seqExpect
              ++ be16 n.warmUp ++ be16 p.warmUpCount ++ [flagByte n.exceeded] ++ be32 (remaining s.now n.silenceDeadline)
              ++ be32 (remaining s.now n.motionHold.a) ++ be32 (remaining s.now n.motionHold.b)
              ++ be32 (remaining s.now n.motionHold.c)
              ++ [n.channels.a, n.channels.b, n.channels.c].flatMap fun c =>
                be16 c.iLast ++ be16 c.vLast ++ be16 c.hLast ++ be16 c.hPrev ++ be32 c.iFast16 ++ be32 c.iSlow16
                  ++ be16 c.score ++ [flagByte c.arcFlag, byteOf c.arcRun, flagByte c.saturated, flagByte c.seeded]
                  ++ be16 (dropRatio p.iMin c)))
      ∧ exec (.readHealth tag [i]) s
        = .next (s.answer 0x05 tag .done
            (i :: be16 n.health.gaps ++ be16 n.health.stales ++ be16 n.health.silences ++ be16 n.health.saturations
              ++ be16 p.thresholds.gaps ++ be16 p.thresholds.stales ++ be16 p.thresholds.silences
              ++ be16 p.thresholds.saturations ++ [flagByte n.exceeded])))
    ∧ (∀ r x p, s.engine = .running → i.toNat < 48 → s.active.position? i.toNat = some r → s.zone? i.toNat = some x →
      p = s.profile i.toNat →
      exec (.readZone tag [i]) s
        = .next (s.answer 0x04 tag .done
            ([i, x.run.state.code, reasonCode x.run.reason, byteOf x.run.trips, byteOf p.lockoutLimit,
                flagByte x.run.wouldTrip]
              ++ be32 (remaining s.now x.run.stepDeadline) ++ be32 (remaining s.now x.run.graceDeadline)
              ++ be32 (remaining s.now x.run.memoryDeadline) ++ [byteOf (s.profileNumber i.toNat)]
              ++ [byteOf x.eval.evidence, byteOf x.eval.score, faultedCode x.eval.faulted]
              ++ be32 (remaining s.now x.eval.lossRecord) ++ [flagByte x.eval.lastEvaluation.isSome]
              ++ be32 ((x.eval.lastEvaluation.map BitVec.toNat).getD 0)
              ++ [x.eval.perPhase.a, x.eval.perPhase.b, x.eval.perPhase.c].flatMap (fun e =>
                be16s e.baseline ++ [flagByte e.reseed] ++ be16s e.residual ++ be32s e.excess
                  ++ [e.indications.mask, byteOf e.score])
              ++ [byteOf x.topo.position, indexByte x.topo.source, flagByte x.topo.twinInUse, x.topo.evaluability.code,
                indexByte x.topo.host, byteOf x.topo.count, byteOf x.topo.list.length]
              ++ x.topo.list.flatMap (fun b => [byteOf b.position, byteOf b.source, flagByte b.twinInUse])
              ++ byteOf x.topo.absorbed.length :: x.topo.absorbed.map byteOf)))
    ∧ (∀ hi lo count : Byte, 4 ≤ i.toNat ∨ 7 < count.toNat →
      exec (.readCapture tag [i, hi, lo, count]) s = .next (s.answer 0x31 tag .badParam []))
    ∧ ∀ (k : Fin 4) (hi lo count : Byte) (x : Slot) (start : Nat) (window : List CaptureRecord),
      i.toNat = k.val → count.toNat ≤ 7 → x = s.slots.get k → start = 256 * hi.toNat + lo.toNat →
      window = (x.records.drop start).take count.toNat →
      window.length = min count.toNat (x.records.length - start)
      ∧ exec (.readCapture tag [i, hi, lo, count]) s
        = .next (s.answer 0x31 tag .done
            ([i, x.state.code, indexByte (x.feeder.map Fin.val), triggerCode x.kind, indexByte x.subject]
              ++ be32 ((x.time.map BitVec.toNat).getD 0) ++ [byteOf x.preRecords] ++ be16 x.records.length
              ++ be16 x.postTarget ++ [byteOf x.further, hi, lo, byteOf window.length]
              ++ window.flatMap fun c => [c.address, c.sequence] ++ be32 c.time.toNat ++ [c.flags]
                ++ [c.values.a, c.values.b, c.values.c].flatMap fun m => be16 m.i ++ be16 m.v ++ be16 m.h))

/-- CLEAR HEALTH NODE, ADMIT NODE and BAR NODE (R22, R31 to R34): the four attributes and the flag are cleared in any state;
a BARRED node, or a SILENT one without auto-return, becomes EXPECTED; any node but a BARRED one is barred by COMMAND, and
only the feeder of a LIVE one is recomputed, where a completion made by it follows the REPLY (R179). Other states are refused
with WRONG-STATE. -/
def Obligations.NodeCommandsMoveTheNode : Prop :=
  ∀ (s : State) (tag i : Byte) (r : NodeRec) (n m : NodeRun), s.CanTake → s.engine = .running → i.toNat < 48 →
    s.active.node? i.toNat = some r → s.node? i.toNat = some n →
    m = { n with state := .barred, barReason := some .command, seqExpect := none, silenceDeadline := none } →
    exec (.clearHealthNode tag [i]) s
      = .next ((s.setNode i.toNat { n with health := ⟨0, 0, 0, 0⟩, exceeded := false }).answer 0x08 tag .done [])
    ∧ (n.state = .barred ∨ (n.state = .silent ∧ r.autoReturn = false) →
      exec (.admitNode tag [i]) s
        = .next ((s.setNode i.toNat { n with
            state := .expected, barReason := none, seqExpect := none, silenceDeadline := none, warmUp := 0 }).answer
              0x24 tag .done []))
    ∧ (n.state ≠ .barred → (n.state = .silent → r.autoReturn) →
      exec (.admitNode tag [i]) s = .next (s.answer 0x24 tag .wrongState []))
    ∧ (n.state = .barred → exec (.barNode tag [i]) s = .next (s.answer 0x23 tag .wrongState []))
    ∧ (n.state = .expected ∨ n.state = .warming ∨ n.state = .silent →
      exec (.barNode tag [i]) s = .next ((s.setNode i.toNat m).answer 0x23 tag .done []))
    ∧ (n.state = .live →
      exec (.barNode tag [i]) s
        = .next ((((s.setNode i.toNat m).recompute r.feeder).answer 0x23 tag .done []).flushHeld))
    ∧ (n.state = .live → s.proof.state ≠ .zonePending →
      ∃ t, exec (.barNode tag [i]) s = .next t
        ∧ State.OutsideZones ((s.setNode i.toNat m).answer 0x23 tag .done []) t)

/-- SET MODE and CLEAR COUNTERS (R62, R171), in either engine state: the requested mode of the feeder alone is written, and
the fourteen counters become 0. -/
def Obligations.SetModeAndClearCountersWriteOneThing : Prop :=
  ∀ (s : State) (tag : Byte), s.CanTake →
    exec (.clearCounters tag []) s = .next (State.answer { s with counters := .zero } 0x07 tag .done [])
    ∧ ∀ (f : Fin 4) (b m : Byte), b.toNat = f.val →
      (∀ mode, (m = 0 ∧ mode = .standard) ∨ (m = 1 ∧ mode = .heightened) ∨ (m = 2 ∧ mode = .inhibited) →
        exec (.setMode tag [b, m]) s
          = .next (State.answer
              { s with feeders := s.feeders.set f ⟨(s.feeders.get f).deadline, mode, (s.feeders.get f).effective⟩ }
              0x20 tag .done []))
      ∧ (2 < m.toNat → exec (.setMode tag [b, m]) s = .next (s.answer 0x20 tag .badParam []))
      ∧ ∀ other : Byte, 4 ≤ other.toNat → exec (.setMode tag [other, m]) s = .next (s.answer 0x20 tag .badParam [])

/-- RELEASE ZONE and CLEAR LOCKOUT (R92 to R94) with no zone proof pending: a TRIPPED zone, or by CLEAR LOCKOUT a LOCKOUT
one, leaves with evidence 0 and its reseed marks set, raises CLEARED, and is placed by its evaluability; RELEASE keeps the
trip count and starts the trip memory, CLEAR LOCKOUT drops both; the lines follow. Other states are refused with
WRONG-STATE. -/
def Obligations.ReleasePlacesTheZoneByItsTopology : Prop :=
  ∀ (s : State) (c : Instr) (tag i code : Byte) (z trips : Nat) (r : NodeRec) (x : Zone) (p : ZoneProfile)
    (memory : Option Time),
    s.CanTake → s.proof.state ≠ .zonePending → s.engine = .running → z < 48 → i.toNat = z → s.active.position? z = some r →
    s.zone? z = some x → p = s.profile z →
    (c = .releaseZone tag [i] ∧ code = 0x21 ∧ x.run.state = .tripped ∧ trips = x.run.trips
        ∧ memory = (if p.tripMemory = 0 then none else some (after s.now p.tripMemory))
      ∨ c = .clearLockout tag [i] ∧ code = 0x22 ∧ (x.run.state = .tripped ∨ x.run.state = .lockout) ∧ trips = 0
        ∧ memory = none →
      ∃ t y, exec c s = .next t ∧ State.OutsideZones (s.answer code tag .done []) t ∧ t.LinesFollow
        ∧ t.zone? z = some y ∧ (∀ w, w ≠ z → t.zone? w = s.zone? w) ∧ y.topo = x.topo
        ∧ y.eval = { x.eval with evidence := 0, perPhase := x.eval.perPhase.map fun e => { e with reseed := true } }
        ∧ y.run.trips = trips ∧ y.run.memoryDeadline = memory
        ∧ (y.run.state, y.run.reason) = (match x.topo.evaluability with
          | .evaluable => (.normal, none)
          | .absorbed => (.absorbed, none)
          | .headLost => (.degraded, some .headLost)
          | .boundaryOverflow => (.degraded, some .boundaryOverflow))
        ∧ ∃ v ∈ t.verdicts, v.zone = z ∧ v.history.getLsbD 7 ∧ v.state = y.run.state ∧ v.evidence = 0)
    ∧ (x.run.state ≠ .tripped → exec (.releaseZone tag [i]) s = .next (s.answer 0x21 tag .wrongState []))
    ∧ (x.run.state ≠ .tripped → x.run.state ≠ .lockout →
      exec (.clearLockout tag [i]) s = .next (s.answer 0x22 tag .wrongState []))

/-- RESTART ENGINE (R58, R81, R104, R137, R151, R168, R173, R174): refused while a zone is tripped, without force; else the
tables, engine state, time, sequence counter, presence, receivers and transmissions stay, every node, queue, counter and slot
is fresh, no line is asserted, and the REPLY and the STARTED notice are queued. Every zone's records are fresh, and the
recomputation then leaves each HEAD zone of a used feeder DEGRADED, with its grace timer where the standard profile asks for
one, and the others ABSORBED, with one verdict for each, feeder by feeder and ascending. That bytes collected so far stay is
read from R137, log entry 13, and that the whole proof record is none or clear from R175, log entry 11. -/
def Obligations.RestartKeepsTheTablesAndClearsTheRuntime : Prop :=
  ∀ (s : State) (tag force : Byte) (tripped : Prop), s.CanTake →
    (tripped ↔ ∃ z ∈ s.active.indices, ∃ x, s.zone? z = some x ∧ (x.run.state = .tripped ∨ x.run.state = .lockout)) →
    (1 < force.toNat → exec (.restartEngine tag [force]) s = .next (s.answer 0x3F tag .badParam []))
    ∧ (force = 0 → tripped → exec (.restartEngine tag [force]) s = .next (s.answer 0x3F tag .refusedTripped []))
    ∧ (force = 0 ∧ ¬tripped ∨ force = 1 →
      ∃ t, exec (.restartEngine tag [force]) s = .next t
        ∧ t.active = s.active ∧ t.staged = s.staged ∧ t.engine = s.engine ∧ t.now = s.now ∧ t.strap = s.strap
        ∧ t.sequence = s.sequence ∧ t.presence = s.presence ∧ t.presenceDeadline = s.presenceDeadline
        ∧ t.controllerTx = s.controllerTx ∧ t.sensorTx = s.sensorTx ∧ t.rxSensor = s.rxSensor
        ∧ t.rxController = s.rxController ∧ t.awaitingPresence = s.awaitingPresence
        ∧ t.awaitingRouting = s.awaitingRouting ∧ t.pending = s.pending
        ∧ (∀ i, t.node? i = (s.active.node? i).map fun _ => .fresh)
        ∧ (∀ z, (t.zone? z).isSome = (s.active.position? z).isSome)
        ∧ (∀ z r, s.active.position? z = some r → s.active.feederUsed r.feeder = false → t.zone? z = some (.fresh z))
        ∧ (∀ z r p, s.active.position? z = some r → s.active.feederUsed r.feeder = true →
          p = s.active.zoneProfile (profileNumber .standard r) →
          t.zone? z = some
            { run := if r.role = .head then
                ⟨.degraded, some .headLost, 0, none, false,
                  if p.lossAction = .safeTrip then some (after s.now p.degradeGrace) else none, none⟩
              else ⟨.absorbed, none, 0, none, false, none, none⟩
              eval := .fresh
              topo := topologyOf s.active (fun _ => false) z })
        ∧ (t.verdicts.map fun v => (v.zone, v.kind)) = s.active.usedFeeders.flatMap (fun f =>
          (s.active.zonesOf f).map fun z => (z, if (s.active.node? z).any (fun r => decide (r.role = .head))
            then VerdictKind.degraded else VerdictKind.absorbed))
        ∧ (∀ v ∈ t.verdicts, ∃ r x, s.active.position? v.zone = some r ∧ t.zone? v.zone = some x
          ∧ v = ⟨v.zone, r.address, r.feeder, v.kind, v.kind.bit, x.run.state, none, .none, 0, 0, x.run.reason, s.now⟩)
        ∧ (∀ f, t.feeders.get f = ⟨if s.engine = .running then some (after s.now (s.active.header.periods.get f)) else none,
            .standard, .standard⟩)
        ∧ t.forwardFifo = [] ∧ t.sensorQueue = [] ∧ t.counters = .zero ∧ t.proof = .idle
        ∧ (∀ f, t.rings.get f = []) ∧ (∀ i, t.slots.get i = .empty) ∧ t.missed = 0 ∧ (∀ l, t.lines.get l = false)
        ∧ t.replies = [⟨0x3F, tag, .done, []⟩, ⟨0x00, 0, .done, [2]⟩])

/-! ## Disturbance capture -/

/-- Capture (R140, R142 to R145). A SUSPECT, TRIP or MOTION trigger is raised when its bit of the header's trigger mask is
set, and CAPTURE NOW always. A trigger is taken by the first of three cases, with no other effect: the feeder's FILLING
slot counts it, else the FREE slot of the lowest number takes it with the last records of the ring, else it is missed. A
capture record of a used feeder joins the tail of its ring, which keeps the last 128, and of its FILLING slot, which freezes
at its target; rings, slots and records of other feeders stand. -/
def Obligations.TriggersAndRecordsFillTheSlots : Prop :=
  (∀ (s : State) (f : Fin 4) (kind : TriggerKind) (subject : Option Nat) (selected : Bool),
      selected = (match kind with
        | .suspect => s.active.header.triggerMask.getLsbD 0
        | .trip => s.active.header.triggerMask.getLsbD 1
        | .motion => s.active.header.triggerMask.getLsbD 2
        | .captureNow => true) →
      s.raiseTrigger f kind subject = if selected then s.captureTrigger f kind subject else s)
  ∧ (∀ (s t : State) (f : Fin 4) (kind : TriggerKind) (subject : Option Nat), t = s.captureTrigger f kind subject →
      (∀ i, (s.slots.get i).state = .filling → (s.slots.get i).feeder = some f →
        (∀ j, (s.slots.get j).state = .filling → (s.slots.get j).feeder = some f → j = i) →
        t = { s with slots := s.slots.set i { s.slots.get i with further := min 255 ((s.slots.get i).further + 1) } })
      ∧ ((∀ j, (s.slots.get j).state = .filling → (s.slots.get j).feeder ≠ some f) →
        (∀ i, (s.slots.get i).state = .free → (∀ j, j < i → (s.slots.get j).state ≠ .free) →
          ∃ x, t = { s with slots := s.slots.set i x }
            ∧ x = ⟨.filling, some f, some kind, subject, some s.now,
                min s.active.header.preCount (s.rings.get f).length, s.active.header.postCount, x.records, 0⟩
            ∧ ∃ older, s.rings.get f = older ++ x.records
              ∧ x.records.length = min s.active.header.preCount (s.rings.get f).length)
        ∧ ((∀ j, (s.slots.get j).state ≠ .free) → t = { s with missed := min 65535 (s.missed + 1) })))
  ∧ (∀ (s t : State) (f : Fin 4) (c : CaptureRecord), s.CaptureWhole → s.active.feederUsed f → t = s.pushRecord f c →
      t = { s with rings := t.rings, slots := t.slots }
      ∧ (∀ g, g ≠ f → t.rings.get g = s.rings.get g)
      ∧ ((s.rings.get f).length < 128 → t.rings.get f = s.rings.get f ++ [c])
      ∧ ((s.rings.get f).length = 128 → t.rings.get f = (s.rings.get f).tail ++ [c])
      ∧ ∀ i x, x = s.slots.get i →
        (x.state = .filling → x.feeder = some f →
          t.slots.get i = { x with
            records := x.records ++ [c]
            state := if x.records.length + 1 = x.preRecords + x.postTarget then .frozen else .filling })
        ∧ (x.state ≠ .filling ∨ x.feeder ≠ some f → t.slots.get i = x))

/-- CAPTURE NOW and FREE CAPTURE (R147, R148): a trigger without a subject for a used feeder, whatever becomes of it; a
FROZEN slot is freed, a FILLING one only with abort, a FREE one never. A feeder or slot out of range, and an abort flag
other than 0 or 1, are refused with BAD-PARAM. -/
def Obligations.CaptureCommandsTriggerAndFree : Prop :=
  ∀ (s : State) (tag b : Byte) (k : Fin 4), s.CanTake → b.toNat = k.val →
    (s.engine = .running → s.active.feederUsed k →
      exec (.captureNow tag [b]) s = .next ((s.captureTrigger k .captureNow none).answer 0x30 tag .done []))
    ∧ (s.engine = .running → s.active.feederUsed k = false →
      exec (.captureNow tag [b]) s = .next (s.answer 0x30 tag .wrongState []))
    ∧ (∀ abort : Byte, abort.toNat ≤ 1 →
      ((s.slots.get k).state = .frozen ∨ (s.slots.get k).state = .filling ∧ abort = 1 →
        exec (.freeCapture tag [b, abort]) s
          = .next (State.answer { s with slots := s.slots.set k .empty } 0x32 tag .done []))
      ∧ ((s.slots.get k).state = .free ∨ (s.slots.get k).state = .filling ∧ abort = 0 →
        exec (.freeCapture tag [b, abort]) s = .next (s.answer 0x32 tag .wrongState [])))
    ∧ (∀ abort : Byte, 1 < abort.toNat → exec (.freeCapture tag [b, abort]) s = .next (s.answer 0x32 tag .badParam []))
    ∧ ∀ other abort : Byte, 4 ≤ other.toNat →
      exec (.freeCapture tag [other, abort]) s = .next (s.answer 0x32 tag .badParam [])
        ∧ (s.engine = .running → exec (.captureNow tag [other]) s = .next (s.answer 0x30 tag .badParam []))

/-! ## Proofs -/

/-- PROVE ZONE and PROVE LINE (R175, R176, R178): a zone or mask, a line or pulse, out of range is refused with BAD-PARAM;
with a proof in flight BUSY; else a zone in NORMAL or SUSPECT is accepted and waits, and a line that is not asserted is
asserted for the pulse, on the mark clear; other targets, a TWIN or an absent record among them, are refused with WRONG-STATE.
The fields a proof does not use are none or clear by the model's choice, log entry 11. -/
def Obligations.ProofCommandsStartOneProof : Prop :=
  ∀ (s : State) (tag : Byte), s.CanTake →
    (∀ (i mask : Byte) (r : NodeRec) (x : Zone), s.engine = .running → i.toNat < 48 → mask.toNat < 32 →
      s.active.position? i.toNat = some r → s.zone? i.toNat = some x →
      (s.proof.state ≠ .none → exec (.proveZone tag [i, mask]) s = .next (s.answer 0x38 tag .busy []))
      ∧ (s.proof.state = .none → x.run.state = .normal ∨ x.run.state = .suspect →
        exec (.proveZone tag [i, mask]) s
          = .next (State.answer
              { s with proof := ⟨.zonePending, some .proveZone, some i.toNat, some tag,
                  ⟨mask.getLsbD 0, mask.getLsbD 1, mask.getLsbD 2, mask.getLsbD 3, mask.getLsbD 4⟩, none, false, none⟩ }
              0x38 tag .accepted []))
      ∧ (s.proof.state = .none → x.run.state ≠ .normal → x.run.state ≠ .suspect →
        exec (.proveZone tag [i, mask]) s = .next (s.answer 0x38 tag .wrongState [])))
    ∧ (∀ i mask : Byte, s.engine = .running →
      (48 ≤ i.toNat ∨ 32 ≤ mask.toNat → exec (.proveZone tag [i, mask]) s = .next (s.answer 0x38 tag .badParam []))
      ∧ (i.toNat < 48 → mask.toNat < 32 → s.active.position? i.toNat = none →
        (s.proof.state ≠ .none → exec (.proveZone tag [i, mask]) s = .next (s.answer 0x38 tag .busy []))
        ∧ (s.proof.state = .none → exec (.proveZone tag [i, mask]) s = .next (s.answer 0x38 tag .wrongState []))))
    ∧ (∀ b hi lo : Byte, 4 ≤ b.toNat ∨ 256 * hi.toNat + lo.toNat < 10 ∨ 2000 < 256 * hi.toNat + lo.toNat →
      exec (.proveLine tag [b, hi, lo]) s = .next (s.answer 0x39 tag .badParam []))
    ∧ ∀ (l : Fin 4) (b hi lo : Byte), b.toNat = l.val → 10 ≤ 256 * hi.toNat + lo.toNat →
      256 * hi.toNat + lo.toNat ≤ 2000 →
      (s.proof.state ≠ .none → exec (.proveLine tag [b, hi, lo]) s = .next (s.answer 0x39 tag .busy []))
      ∧ (s.proof.state = .none → s.lines.get l = true →
        exec (.proveLine tag [b, hi, lo]) s = .next (s.answer 0x39 tag .wrongState []))
      ∧ (s.proof.state = .none → s.lines.get l = false → s.LinesFollow →
        exec (.proveLine tag [b, hi, lo]) s
          = .next (State.answer
              { s with
                lines := s.lines.set l true
                proof := ⟨.pulseRunning, some .proveLine, some l.val, some tag, ⟨false, false, false, false, false⟩,
                  some (after s.now (256 * hi.toNat + lo.toNat)), false, none⟩ }
              0x39 tag .accepted []))

/-- CANCEL PROOF and PULSE_EXPIRY (R178, R179): the proof ends, a pulse's line falls back to its policy condition, and the
completion follows the command's own REPLY, or is held where the queue is full; with no proof in flight WRONG-STATE. The
whole record is none or clear once a proof ends, and a pulse expiry with nothing due changes nothing, by the model's choice,
log entries 1 and 11. -/
def Obligations.ProofsEndWithOneCompletion : Prop :=
  ∀ (s : State) (tag : Byte),
    (s.CanTake → s.proof.state = .none → exec (.cancelProof tag []) s = .next (s.answer 0x3A tag .wrongState []))
    ∧ (∀ g code lines, s.CanTake → s.proof.tag = some g →
      (s.proof.state = .zonePending ∧ s.proof.kind = some .proveZone ∧ code = 0x38 ∧ lines = s.lines
        ∨ s.proof.state = .pulseRunning ∧ s.proof.kind = some .proveLine ∧ code = 0x39
          ∧ lines = Four.of s.policyCondition) →
      exec (.cancelProof tag []) s
        = .next (if s.replies.length < 3 then
            { s with
              lines := lines
              proof := .idle
              replies := s.replies ++ [⟨0x3A, tag, .done, []⟩, ⟨code, g, .cancelled, []⟩] }
          else
            { s with
              lines := lines
              proof := { s.proof with
                state := .completionWaiting, pulseDeadline := none, held := some ⟨code, g, .cancelled, []⟩ }
              replies := s.replies ++ [⟨0x3A, tag, .done, []⟩] }))
    ∧ (∀ g status, s.proof.state = .pulseRunning → s.proof.kind = some .proveLine → s.proof.tag = some g →
      status = (if s.proof.takenOver then Status.takenOver else Status.done) → due s.now s.proof.pulseDeadline →
      exec .pulseExpiry s
        = .next (if s.replies.length < 4 then
            { s with
              lines := Four.of s.policyCondition
              proof := .idle
              replies := s.replies ++ [⟨0x39, g, status, []⟩] }
          else
            { s with
              lines := Four.of s.policyCondition
              proof := { s.proof with
                state := .completionWaiting, pulseDeadline := none, held := some ⟨0x39, g, status, []⟩ } }))
    ∧ (s.proof.state ≠ .pulseRunning ∨ due s.now s.proof.pulseDeadline = false → exec .pulseExpiry s = .next s)

/-- The shadow evaluation (R61, R176): it completes the proof with four bytes, queued or, at a full reply queue, held, and
touches nothing else. The shadow score is the largest phase score after the forced indications have joined the faulted phase
of the real result, phase A when that is none, and its weights are summed again; the resulting state and kind are those of
R85 and R86 at the shadow evidence; with an empty forced mask the shadow score and evidence are those of the evaluation that
follows; and a feeder expiry with a proof pending leaves the zones, verdicts, lines and slots that it leaves without one.
With a proof pending for a zone of the feeder, the expiry's next state has the replies and the proof record of the shadow
evaluation on the state with the mode latched. The whole proof record is none or clear once the proof ends, and what stays
of it while a completion waits, by the model's choice, log entry 11. -/
def Obligations.ShadowEvaluationOnlyReports : Prop :=
  (∀ (s : State) (f : Fin 4) (z u score evidence forced : Nat) (x : Zone) (r : NodeRec) (p : ZoneProfile) (g : Byte)
      (e : Evaluation) (ph : Phase) (found : Indications),
    s.proof.state = .zonePending → s.proof.kind = some .proveZone → s.proof.target = some z → s.proof.tag = some g →
    s.active.position? z = some r → r.feeder = f → s.zone? z = some x → x.topo.source = some u →
    p = s.profile z → (x.run.state = .normal ∨ x.run.state = .suspect) →
    e = x.eval.evaluate p x.run.state s.now (s.inputs x u) →
    (e.faulted = some ph ∨ e.faulted = none ∧ ph = .a) → found = (e.perPhase.get ph).indications →
    forced = (if found.open_ ∨ s.proof.forced.open_ then p.weights.open_ else 0)
      + (if found.leak ∨ s.proof.forced.leak then p.weights.leak else 0)
      + (if found.arc ∨ s.proof.forced.arc then p.weights.arc else 0)
      + (if found.motion ∨ s.proof.forced.motion then p.weights.motion else 0)
      + (if found.lost ∨ s.proof.forced.lost then p.weights.lost else 0) →
    forced ≤ score → (∀ q, q ≠ ph → (e.perPhase.get q).score ≤ score) →
    (score = forced ∨ ∃ q, q ≠ ph ∧ score = (e.perPhase.get q).score) →
    evidence = (if score = 0 then x.eval.evidence - p.decay else min 255 (x.eval.evidence + score)) →
    score = shadowScore p s.proof.forced e
    ∧ ∃ state kind reply, reply = ⟨0x38, g, .done, [byteOf score, byteOf evidence, state, kind]⟩
      ∧ (s.replies.length < 4 → s.shadowEvaluation f = { s with proof := .idle, replies := s.replies ++ [reply] })
      ∧ (4 ≤ s.replies.length → s.shadowEvaluation f
        = { s with proof := { s.proof with state := .completionWaiting, pulseDeadline := none, held := some reply } })
      ∧ (p.tConfirm ≤ evidence → (s.feeders.get f).effective ≠ .inhibited → x.run.trips + 1 < p.lockoutLimit →
        state = 2 ∧ kind = 3)
      ∧ (p.tConfirm ≤ evidence → (s.feeders.get f).effective ≠ .inhibited → p.lockoutLimit ≤ x.run.trips + 1 →
        state = 3 ∧ kind = 4)
      ∧ (p.tConfirm ≤ evidence → (s.feeders.get f).effective = .inhibited →
        state = 1 ∧ kind = if x.run.state = .suspect ∧ x.run.wouldTrip then 0 else 2)
      ∧ (evidence < p.tConfirm → kind = 0
        ∧ (x.run.state = .normal → state = if p.tSuspect ≤ evidence then 1 else 0)
        ∧ (x.run.state = .suspect → state = if evidence = 0 then 0 else 1)))
  ∧ (∀ (e : Evaluation) (p : ZoneProfile) (was : ZoneState) (now : Time) (ins : ZoneInputs),
    shadowScore p ⟨false, false, false, false, false⟩ (e.evaluate p was now ins) = (e.evaluate p was now ins).score)
  ∧ (∀ (s : State) (f : Fin 4), s.proof.state = .zonePending →
    ∃ t u, exec (.feederEvaluationExpiry f) s = .next t
      ∧ exec (.feederEvaluationExpiry f) { s with proof := .idle } = .next u
      ∧ t.zones = u.zones ∧ t.feeders = u.feeders ∧ t.verdicts = u.verdicts ∧ t.lines = u.lines ∧ t.slots = u.slots
      ∧ t.missed = u.missed)
  ∧ ∀ (s : State) (f : Fin 4) (mode : Mode) (z src : Nat) (x : Zone) (r : NodeRec) (g : Byte),
    s.proof.state = .zonePending → s.proof.kind = some .proveZone → s.proof.target = some z → s.proof.tag = some g →
    s.active.position? z = some r → r.feeder = f → s.zone? z = some x → x.topo.source = some src →
    mode = (s.feeders.get f).requested → due s.now (s.feeders.get f).deadline →
    ∃ t u : State, exec (.feederEvaluationExpiry f) s = .next t
      ∧ u = { s with feeders := s.feeders.set f ⟨(s.feeders.get f).deadline, mode, mode⟩, zones := u.zones }
      ∧ u.zone? z = some { x with run := { x.run with
          trips := min x.run.trips (s.active.zoneProfile (profileNumber mode r)).lockoutLimit } }
      ∧ t.replies = (u.shadowEvaluation f).replies ∧ t.proof = (u.shadowEvaluation f).proof
      ∧ ∃ data, data.length = 4
        ∧ (s.replies.length < 4 → t.proof = .idle ∧ t.replies = s.replies ++ [⟨0x38, g, .done, data⟩])
        ∧ (4 ≤ s.replies.length → t.replies = s.replies
          ∧ t.proof = { s.proof with
              state := .completionWaiting, pulseDeadline := none, held := some ⟨0x38, g, .done, data⟩ })

/-- A pending zone proof and its zone (R100, R177, R179). Whatever command is taken, the proof stands as long as its zone is
NORMAL or SUSPECT; with a zone that leaves them it ends ABANDONED, and the completion is queued within the event, or held
where the reply queue is full. Apart stand the commands that end it another way: the expiry of its feeder, CANCEL PROOF,
RESTART ENGINE, a hard reset, and ACTIVATE; a routed frame is one of the other commands. At a successful ACTIVATE the proof
of a zone that is dropped is abandoned, and that of a kept zone follows it to its new index, or is abandoned where the
hand-offs take the zone out of NORMAL and SUSPECT. What stays of the record while a completion waits, and that nothing stays
after, is the model's choice, log entry 11. -/
def Obligations.PendingProofEndsWithItsZone : Prop :=
  ∀ (s t : State) (z : Nat) (x : Zone) (r : NodeRec) (g : Byte), s.proof.state = .zonePending →
    s.proof.kind = some .proveZone → s.proof.target = some z → s.proof.tag = some g → s.active.node? z = some r →
    s.zone? z = some x → (x.run.state = .normal ∨ x.run.state = .suspect) →
    (∀ (c : Instr) (y : Zone), exec c s = .next t → c ≠ .feederEvaluationExpiry r.feeder → c ≠ .controllerFrameRouting →
      (∀ strap, c ≠ .hardReset strap) → (∀ tag params, c ≠ .activate tag params) →
      (∀ tag params, c ≠ .cancelProof tag params) → (∀ tag params, c ≠ .restartEngine tag params) →
      t.zone? z = some y →
      ((y.run.state = .normal ∨ y.run.state = .suspect) → t.proof = s.proof)
      ∧ (y.run.state ≠ .normal → y.run.state ≠ .suspect → t.Abandoned 0x38 g))
    ∧ (∀ tag, exec (.activate tag []) s = .next t → s.CanTake → s.staged.failure = none → s.droppedTripped = none →
      (keptTo s.active s.staged z = none → t.Abandoned 0x38 g)
      ∧ ∀ j y, keptTo s.active s.staged z = some j → t.zone? j = some y →
        ((y.run.state = .normal ∨ y.run.state = .suspect) → t.proof = { s.proof with target := some j })
        ∧ (y.run.state ≠ .normal → y.run.state ≠ .suspect → t.Abandoned 0x38 g))

/-! ## What every step keeps -/

/-- Every command, in every state, completes within its event (R1, R135, R152, spec 95): it leaves the waiting commands
alone; only a hard reset moves engine time or the strap; only ACTIVATE, a hard reset, or a frame routed to one, changes the
ACTIVE copy or the engine state. That engine time stands while a command is taken is the model's choice, log entry 2, and so
are the waiting commands, which a hard reset keeps, log entry 16. -/
def Obligations.EveryCommandIsTakenWhole : Prop :=
  ∀ (s : State) (c : Instr), ∃ t, exec c s = .next t ∧ t.pending = s.pending
    ∧ ((∀ strap, c ≠ .hardReset strap) → t.now = s.now ∧ t.strap = s.strap)
    ∧ ((∀ strap, c ≠ .hardReset strap) → (∀ tag params, c ≠ .activate tag params) → c ≠ .controllerFrameRouting →
      t.active = s.active ∧ t.engine = s.engine)

/-- Every step keeps the lines at what their policy conditions and the pulse call for (R114, R115). -/
def Obligations.StepKeepsTheLinesFollowing : Prop :=
  ∀ s t : State, s.LinesFollow → step s = .next t → t.LinesFollow

/-- Every step keeps valid tables, records that match them, and topology records that match the node states (R3, R12, R16,
R152, R153, R157, R160, R162). -/
def Obligations.StepKeepsTheConfiguration : Prop :=
  ∀ s t : State, s.Configured → step s = .next t → t.Configured

/-- Every step keeps the queues in their capacities, at most one verdict entry for a zone, and a held completion only behind
a full reply queue (R106, R127, R129, R167, R179). -/
def Obligations.StepKeepsTheQueuesBounded : Prop :=
  ∀ s t : State, s.QueuesBounded → step s = .next t → t.QueuesBounded

/-- Every step keeps evidence in 0..255, scores in 0..75 and trip counts in 0..3 (R65, R77, R78, R83, R89), and each node's
and zone's deadlines, flags and reasons fitting its state (R19, R28, R83, R91). -/
def Obligations.StepKeepsTheZonesBoundedAndTheTimersFitting : Prop :=
  ∀ s t : State, s.ZonesBounded → s.TimersFit → step s = .next t → t.ZonesBounded ∧ t.TimersFit

/-- Every step keeps each node's channels in the ranges of R42 (R48), its health attributes in 0..65535 and its warm-up
progress in 0..1024 (R2, R19), and each counter in 0..2^32 - 1 (R2, R134). That the warm-up progress stops at 1024 is read
from R2 and R19, log entry 18. -/
def Obligations.StepKeepsTheNodesAndCountersBounded : Prop :=
  ∀ s t : State, s.NodesBounded → step s = .next t → t.NodesBounded

/-- Every step keeps rings and slots whole, with one FILLING slot for a feeder (R140, R141, R143 to R145, R149). -/
def Obligations.StepKeepsTheCaptureWhole : Prop :=
  ∀ s t : State, s.CaptureWhole → step s = .next t → t.CaptureWhole

/-- No event but a release of the zone, a restart, a hard reset, or an ACTIVATE, which moves records by R103, ends a trip
(R91, R104): at every other command a TRIPPED or LOCKOUT zone keeps its state, reason, evidence, score and faulted phase. A
frame routed to the management unit is one of these commands. -/
def Obligations.OnlyReleaseOrRestartEndsATrip : Prop :=
  ∀ (s t : State) (c : Instr) (z : Nat) (x : Zone), exec c s = .next t → s.zone? z = some x →
    (x.run.state = .tripped ∨ x.run.state = .lockout) → c ≠ .controllerFrameRouting →
    (∀ strap, c ≠ .hardReset strap) → (∀ tag params, c ≠ .activate tag params) →
    (∀ tag params, c ≠ .restartEngine tag params) →
    (∀ tag i, i.toNat = z → c ≠ .releaseZone tag [i] ∧ c ≠ .clearLockout tag [i]) →
    ∃ y, t.zone? z = some y ∧ y.run.state = x.run.state ∧ y.run.reason = x.run.reason ∧ y.eval.evidence = x.eval.evidence
      ∧ y.eval.score = x.eval.score ∧ y.eval.faulted = x.eval.faulted

/-- A FROZEN slot does not change until it is freed or the engine restarts (R145): every other command keeps all of it. A
routed frame is one of these commands. -/
def Obligations.FrozenSlotStandsUntilFreed : Prop :=
  ∀ (s t : State) (c : Instr) (k : Fin 4), exec c s = .next t → (s.slots.get k).state = .frozen →
    c ≠ .controllerFrameRouting → (∀ strap, c ≠ .hardReset strap) → (∀ tag params, c ≠ .restartEngine tag params) →
    (∀ tag b abort, b.toNat = k.val → c ≠ .freeCapture tag [b, abort]) →
    t.slots.get k = s.slots.get k
end

