-- ==== Sys2Proof/Laws/Shapes.lean ====
section
/-!
SUPPORT. The two fixed-size containers: what reading after writing gives, and equality by their parts.
-/

namespace Sys2Proof.Machine

variable {α β : Type}

@[simp] theorem PerPhase.get_set_same (t : PerPhase α) (p : Phase) (x : α) : (t.set p x).get p = x := by
  cases p <;> rfl

theorem PerPhase.get_set_other (t : PerPhase α) {p q : Phase} (x : α) (h : q ≠ p) : (t.set p x).get q = t.get q := by
  cases p <;> cases q <;> first | rfl | exact absurd rfl h

@[simp] theorem PerPhase.get_of (f : Phase → α) (p : Phase) : (PerPhase.of f).get p = f p := by cases p <;> rfl

@[simp] theorem PerPhase.get_map (f : α → β) (t : PerPhase α) (p : Phase) : (t.map f).get p = f (t.get p) := by
  cases p <;> rfl

@[simp] theorem PerPhase.get_all (x : α) (p : Phase) : (PerPhase.all x).get p = x := by cases p <;> rfl

theorem PerPhase.ext_get {t u : PerPhase α} (h : ∀ p, t.get p = u.get p) : t = u := by
  cases t; cases u; congr 1 <;> first | exact h .a | exact h .b | exact h .c

@[simp] theorem PerPhase.set_get (t : PerPhase α) (p : Phase) : t.set p (t.get p) = t := by cases p <;> rfl

@[simp] theorem Four.get_set_same (t : Four α) (i : Fin 4) (x : α) : (t.set i x).get i = x := by
  match i with
  | 0 => rfl
  | 1 => rfl
  | 2 => rfl
  | 3 => rfl

theorem Four.get_set_other (t : Four α) {i j : Fin 4} (x : α) (h : j ≠ i) : (t.set i x).get j = t.get j := by
  match i, j with
  | 0, 0 | 1, 1 | 2, 2 | 3, 3 => exact absurd rfl h
  | 0, 1 | 0, 2 | 0, 3 | 1, 0 | 1, 2 | 1, 3 | 2, 0 | 2, 1 | 2, 3 | 3, 0 | 3, 1 | 3, 2 => rfl

@[simp] theorem Four.get_of (f : Fin 4 → α) (i : Fin 4) : (Four.of f).get i = f i := by
  match i with
  | 0 => rfl
  | 1 => rfl
  | 2 => rfl
  | 3 => rfl

@[simp] theorem Four.get_all (x : α) (i : Fin 4) : (Four.all x).get i = x := by
  match i with
  | 0 => rfl
  | 1 => rfl
  | 2 => rfl
  | 3 => rfl

theorem Four.ext_get {t u : Four α} (h : ∀ i, t.get i = u.get i) : t = u := by
  cases t; cases u; congr 1 <;> first | exact h 0 | exact h 1 | exact h 2 | exact h 3

@[simp] theorem Four.set_get (t : Four α) (i : Fin 4) : t.set i (t.get i) = t := by
  match i with
  | 0 => rfl
  | 1 => rfl
  | 2 => rfl
  | 3 => rfl

@[simp] theorem Four.set_set (t : Four α) (i : Fin 4) (x y : α) : (t.set i x).set i y = t.set i y := by
  match i with
  | 0 => rfl
  | 1 => rfl
  | 2 => rfl
  | 3 => rfl

/-- Reading any place after a write: the value written there, the old value elsewhere. -/
theorem Four.get_set (t : Four α) (i j : Fin 4) (x : α) : (t.set i x).get j = if j = i then x else t.get j := by
  by_cases h : j = i
  · subst h; simp
  · simp [h, Four.get_set_other t x h]

/-- The first of the numbers 0 to 3 that a test selects is selected, and no lower one is. -/
theorem four_find?_some {p : Fin 4 → Bool} {i : Fin 4} (h : four.find? p = some i) :
    p i = true ∧ ∀ j, j < i → p j = false := by
  have hp := List.find?_some h
  refine ⟨hp, ?_⟩
  simp only [four, List.find?_cons, List.find?_nil] at h
  intro j hj
  cases h0 : p 0 <;> cases h1 : p 1 <;> cases h2 : p 2 <;> cases h3 : p 3 <;> simp [h0, h1, h2, h3] at h <;> subst h <;>
    (fin_cases j <;> simp_all)

theorem four_find?_none {p : Fin 4 → Bool} : four.find? p = none ↔ ∀ i, p i = false := by
  simp only [four, List.find?_eq_none, List.mem_cons, List.not_mem_nil, or_false, Bool.not_eq_true]
  constructor
  · intro h i
    fin_cases i <;> exact h _ (by simp)
  · intro h i _
    exact h i

end Sys2Proof.Machine
end

