-- ==== Sys2Proof/Laws/State.lean ====
section
/-!
SUPPORT. What each named update of the state leaves unchanged: one lemma for each field and update.
-/

namespace Sys2Proof.Machine

variable (s : State)

/-! ### setNode -/

@[simp] theorem State.setNode_now (i : Nat) (n : NodeRun) : (s.setNode i n).now = s.now := rfl
@[simp] theorem State.setNode_strap (i : Nat) (n : NodeRun) : (s.setNode i n).strap = s.strap := rfl
@[simp] theorem State.setNode_engine (i : Nat) (n : NodeRun) : (s.setNode i n).engine = s.engine := rfl
@[simp] theorem State.setNode_active (i : Nat) (n : NodeRun) : (s.setNode i n).active = s.active := rfl
@[simp] theorem State.setNode_staged (i : Nat) (n : NodeRun) : (s.setNode i n).staged = s.staged := rfl
@[simp] theorem State.setNode_zones (i : Nat) (n : NodeRun) : (s.setNode i n).zones = s.zones := rfl
@[simp] theorem State.setNode_feeders (i : Nat) (n : NodeRun) : (s.setNode i n).feeders = s.feeders := rfl
@[simp] theorem State.setNode_verdicts (i : Nat) (n : NodeRun) : (s.setNode i n).verdicts = s.verdicts := rfl
@[simp] theorem State.setNode_lines (i : Nat) (n : NodeRun) : (s.setNode i n).lines = s.lines := rfl
@[simp] theorem State.setNode_presence (i : Nat) (n : NodeRun) : (s.setNode i n).presence = s.presence := rfl
@[simp] theorem State.setNode_presenceDeadline (i : Nat) (n : NodeRun) : (s.setNode i n).presenceDeadline = s.presenceDeadline := rfl
@[simp] theorem State.setNode_rxSensor (i : Nat) (n : NodeRun) : (s.setNode i n).rxSensor = s.rxSensor := rfl
@[simp] theorem State.setNode_rxController (i : Nat) (n : NodeRun) : (s.setNode i n).rxController = s.rxController := rfl
@[simp] theorem State.setNode_awaitingPresence (i : Nat) (n : NodeRun) : (s.setNode i n).awaitingPresence = s.awaitingPresence := rfl
@[simp] theorem State.setNode_awaitingRouting (i : Nat) (n : NodeRun) : (s.setNode i n).awaitingRouting = s.awaitingRouting := rfl
@[simp] theorem State.setNode_forwardFifo (i : Nat) (n : NodeRun) : (s.setNode i n).forwardFifo = s.forwardFifo := rfl
@[simp] theorem State.setNode_sensorQueue (i : Nat) (n : NodeRun) : (s.setNode i n).sensorQueue = s.sensorQueue := rfl
@[simp] theorem State.setNode_replies (i : Nat) (n : NodeRun) : (s.setNode i n).replies = s.replies := rfl
@[simp] theorem State.setNode_controllerTx (i : Nat) (n : NodeRun) : (s.setNode i n).controllerTx = s.controllerTx := rfl
@[simp] theorem State.setNode_sensorTx (i : Nat) (n : NodeRun) : (s.setNode i n).sensorTx = s.sensorTx := rfl
@[simp] theorem State.setNode_sequence (i : Nat) (n : NodeRun) : (s.setNode i n).sequence = s.sequence := rfl
@[simp] theorem State.setNode_counters (i : Nat) (n : NodeRun) : (s.setNode i n).counters = s.counters := rfl
@[simp] theorem State.setNode_rings (i : Nat) (n : NodeRun) : (s.setNode i n).rings = s.rings := rfl
@[simp] theorem State.setNode_slots (i : Nat) (n : NodeRun) : (s.setNode i n).slots = s.slots := rfl
@[simp] theorem State.setNode_missed (i : Nat) (n : NodeRun) : (s.setNode i n).missed = s.missed := rfl
@[simp] theorem State.setNode_proof (i : Nat) (n : NodeRun) : (s.setNode i n).proof = s.proof := rfl
@[simp] theorem State.setNode_pending (i : Nat) (n : NodeRun) : (s.setNode i n).pending = s.pending := rfl

/-! ### modZone -/

@[simp] theorem State.modZone_now (z : Nat) (g : Zone → Zone) : (s.modZone z g).now = s.now := rfl
@[simp] theorem State.modZone_strap (z : Nat) (g : Zone → Zone) : (s.modZone z g).strap = s.strap := rfl
@[simp] theorem State.modZone_engine (z : Nat) (g : Zone → Zone) : (s.modZone z g).engine = s.engine := rfl
@[simp] theorem State.modZone_active (z : Nat) (g : Zone → Zone) : (s.modZone z g).active = s.active := rfl
@[simp] theorem State.modZone_staged (z : Nat) (g : Zone → Zone) : (s.modZone z g).staged = s.staged := rfl
@[simp] theorem State.modZone_nodes (z : Nat) (g : Zone → Zone) : (s.modZone z g).nodes = s.nodes := rfl
@[simp] theorem State.modZone_feeders (z : Nat) (g : Zone → Zone) : (s.modZone z g).feeders = s.feeders := rfl
@[simp] theorem State.modZone_verdicts (z : Nat) (g : Zone → Zone) : (s.modZone z g).verdicts = s.verdicts := rfl
@[simp] theorem State.modZone_lines (z : Nat) (g : Zone → Zone) : (s.modZone z g).lines = s.lines := rfl
@[simp] theorem State.modZone_presence (z : Nat) (g : Zone → Zone) : (s.modZone z g).presence = s.presence := rfl
@[simp] theorem State.modZone_presenceDeadline (z : Nat) (g : Zone → Zone) : (s.modZone z g).presenceDeadline = s.presenceDeadline := rfl
@[simp] theorem State.modZone_rxSensor (z : Nat) (g : Zone → Zone) : (s.modZone z g).rxSensor = s.rxSensor := rfl
@[simp] theorem State.modZone_rxController (z : Nat) (g : Zone → Zone) : (s.modZone z g).rxController = s.rxController := rfl
@[simp] theorem State.modZone_awaitingPresence (z : Nat) (g : Zone → Zone) : (s.modZone z g).awaitingPresence = s.awaitingPresence := rfl
@[simp] theorem State.modZone_awaitingRouting (z : Nat) (g : Zone → Zone) : (s.modZone z g).awaitingRouting = s.awaitingRouting := rfl
@[simp] theorem State.modZone_forwardFifo (z : Nat) (g : Zone → Zone) : (s.modZone z g).forwardFifo = s.forwardFifo := rfl
@[simp] theorem State.modZone_sensorQueue (z : Nat) (g : Zone → Zone) : (s.modZone z g).sensorQueue = s.sensorQueue := rfl
@[simp] theorem State.modZone_replies (z : Nat) (g : Zone → Zone) : (s.modZone z g).replies = s.replies := rfl
@[simp] theorem State.modZone_controllerTx (z : Nat) (g : Zone → Zone) : (s.modZone z g).controllerTx = s.controllerTx := rfl
@[simp] theorem State.modZone_sensorTx (z : Nat) (g : Zone → Zone) : (s.modZone z g).sensorTx = s.sensorTx := rfl
@[simp] theorem State.modZone_sequence (z : Nat) (g : Zone → Zone) : (s.modZone z g).sequence = s.sequence := rfl
@[simp] theorem State.modZone_counters (z : Nat) (g : Zone → Zone) : (s.modZone z g).counters = s.counters := rfl
@[simp] theorem State.modZone_rings (z : Nat) (g : Zone → Zone) : (s.modZone z g).rings = s.rings := rfl
@[simp] theorem State.modZone_slots (z : Nat) (g : Zone → Zone) : (s.modZone z g).slots = s.slots := rfl
@[simp] theorem State.modZone_missed (z : Nat) (g : Zone → Zone) : (s.modZone z g).missed = s.missed := rfl
@[simp] theorem State.modZone_proof (z : Nat) (g : Zone → Zone) : (s.modZone z g).proof = s.proof := rfl
@[simp] theorem State.modZone_pending (z : Nat) (g : Zone → Zone) : (s.modZone z g).pending = s.pending := rfl

/-! ### modRun -/

@[simp] theorem State.modRun_now (z : Nat) (g : ZoneRecord → ZoneRecord) : (s.modRun z g).now = s.now := rfl
@[simp] theorem State.modRun_strap (z : Nat) (g : ZoneRecord → ZoneRecord) : (s.modRun z g).strap = s.strap := rfl
@[simp] theorem State.modRun_engine (z : Nat) (g : ZoneRecord → ZoneRecord) : (s.modRun z g).engine = s.engine := rfl
@[simp] theorem State.modRun_active (z : Nat) (g : ZoneRecord → ZoneRecord) : (s.modRun z g).active = s.active := rfl
@[simp] theorem State.modRun_staged (z : Nat) (g : ZoneRecord → ZoneRecord) : (s.modRun z g).staged = s.staged := rfl
@[simp] theorem State.modRun_nodes (z : Nat) (g : ZoneRecord → ZoneRecord) : (s.modRun z g).nodes = s.nodes := rfl
@[simp] theorem State.modRun_feeders (z : Nat) (g : ZoneRecord → ZoneRecord) : (s.modRun z g).feeders = s.feeders := rfl
@[simp] theorem State.modRun_verdicts (z : Nat) (g : ZoneRecord → ZoneRecord) : (s.modRun z g).verdicts = s.verdicts := rfl
@[simp] theorem State.modRun_lines (z : Nat) (g : ZoneRecord → ZoneRecord) : (s.modRun z g).lines = s.lines := rfl
@[simp] theorem State.modRun_presence (z : Nat) (g : ZoneRecord → ZoneRecord) : (s.modRun z g).presence = s.presence := rfl
@[simp] theorem State.modRun_presenceDeadline (z : Nat) (g : ZoneRecord → ZoneRecord) : (s.modRun z g).presenceDeadline = s.presenceDeadline := rfl
@[simp] theorem State.modRun_rxSensor (z : Nat) (g : ZoneRecord → ZoneRecord) : (s.modRun z g).rxSensor = s.rxSensor := rfl
@[simp] theorem State.modRun_rxController (z : Nat) (g : ZoneRecord → ZoneRecord) : (s.modRun z g).rxController = s.rxController := rfl
@[simp] theorem State.modRun_awaitingPresence (z : Nat) (g : ZoneRecord → ZoneRecord) : (s.modRun z g).awaitingPresence = s.awaitingPresence := rfl
@[simp] theorem State.modRun_awaitingRouting (z : Nat) (g : ZoneRecord → ZoneRecord) : (s.modRun z g).awaitingRouting = s.awaitingRouting := rfl
@[simp] theorem State.modRun_forwardFifo (z : Nat) (g : ZoneRecord → ZoneRecord) : (s.modRun z g).forwardFifo = s.forwardFifo := rfl
@[simp] theorem State.modRun_sensorQueue (z : Nat) (g : ZoneRecord → ZoneRecord) : (s.modRun z g).sensorQueue = s.sensorQueue := rfl
@[simp] theorem State.modRun_replies (z : Nat) (g : ZoneRecord → ZoneRecord) : (s.modRun z g).replies = s.replies := rfl
@[simp] theorem State.modRun_controllerTx (z : Nat) (g : ZoneRecord → ZoneRecord) : (s.modRun z g).controllerTx = s.controllerTx := rfl
@[simp] theorem State.modRun_sensorTx (z : Nat) (g : ZoneRecord → ZoneRecord) : (s.modRun z g).sensorTx = s.sensorTx := rfl
@[simp] theorem State.modRun_sequence (z : Nat) (g : ZoneRecord → ZoneRecord) : (s.modRun z g).sequence = s.sequence := rfl
@[simp] theorem State.modRun_counters (z : Nat) (g : ZoneRecord → ZoneRecord) : (s.modRun z g).counters = s.counters := rfl
@[simp] theorem State.modRun_rings (z : Nat) (g : ZoneRecord → ZoneRecord) : (s.modRun z g).rings = s.rings := rfl
@[simp] theorem State.modRun_slots (z : Nat) (g : ZoneRecord → ZoneRecord) : (s.modRun z g).slots = s.slots := rfl
@[simp] theorem State.modRun_missed (z : Nat) (g : ZoneRecord → ZoneRecord) : (s.modRun z g).missed = s.missed := rfl
@[simp] theorem State.modRun_proof (z : Nat) (g : ZoneRecord → ZoneRecord) : (s.modRun z g).proof = s.proof := rfl
@[simp] theorem State.modRun_pending (z : Nat) (g : ZoneRecord → ZoneRecord) : (s.modRun z g).pending = s.pending := rfl

/-! ### noteLoss -/

@[simp] theorem State.noteLoss_now (z : Nat) : (s.noteLoss z).now = s.now := rfl
@[simp] theorem State.noteLoss_strap (z : Nat) : (s.noteLoss z).strap = s.strap := rfl
@[simp] theorem State.noteLoss_engine (z : Nat) : (s.noteLoss z).engine = s.engine := rfl
@[simp] theorem State.noteLoss_active (z : Nat) : (s.noteLoss z).active = s.active := rfl
@[simp] theorem State.noteLoss_staged (z : Nat) : (s.noteLoss z).staged = s.staged := rfl
@[simp] theorem State.noteLoss_nodes (z : Nat) : (s.noteLoss z).nodes = s.nodes := rfl
@[simp] theorem State.noteLoss_feeders (z : Nat) : (s.noteLoss z).feeders = s.feeders := rfl
@[simp] theorem State.noteLoss_verdicts (z : Nat) : (s.noteLoss z).verdicts = s.verdicts := rfl
@[simp] theorem State.noteLoss_lines (z : Nat) : (s.noteLoss z).lines = s.lines := rfl
@[simp] theorem State.noteLoss_presence (z : Nat) : (s.noteLoss z).presence = s.presence := rfl
@[simp] theorem State.noteLoss_presenceDeadline (z : Nat) : (s.noteLoss z).presenceDeadline = s.presenceDeadline := rfl
@[simp] theorem State.noteLoss_rxSensor (z : Nat) : (s.noteLoss z).rxSensor = s.rxSensor := rfl
@[simp] theorem State.noteLoss_rxController (z : Nat) : (s.noteLoss z).rxController = s.rxController := rfl
@[simp] theorem State.noteLoss_awaitingPresence (z : Nat) : (s.noteLoss z).awaitingPresence = s.awaitingPresence := rfl
@[simp] theorem State.noteLoss_awaitingRouting (z : Nat) : (s.noteLoss z).awaitingRouting = s.awaitingRouting := rfl
@[simp] theorem State.noteLoss_forwardFifo (z : Nat) : (s.noteLoss z).forwardFifo = s.forwardFifo := rfl
@[simp] theorem State.noteLoss_sensorQueue (z : Nat) : (s.noteLoss z).sensorQueue = s.sensorQueue := rfl
@[simp] theorem State.noteLoss_replies (z : Nat) : (s.noteLoss z).replies = s.replies := rfl
@[simp] theorem State.noteLoss_controllerTx (z : Nat) : (s.noteLoss z).controllerTx = s.controllerTx := rfl
@[simp] theorem State.noteLoss_sensorTx (z : Nat) : (s.noteLoss z).sensorTx = s.sensorTx := rfl
@[simp] theorem State.noteLoss_sequence (z : Nat) : (s.noteLoss z).sequence = s.sequence := rfl
@[simp] theorem State.noteLoss_counters (z : Nat) : (s.noteLoss z).counters = s.counters := rfl
@[simp] theorem State.noteLoss_rings (z : Nat) : (s.noteLoss z).rings = s.rings := rfl
@[simp] theorem State.noteLoss_slots (z : Nat) : (s.noteLoss z).slots = s.slots := rfl
@[simp] theorem State.noteLoss_missed (z : Nat) : (s.noteLoss z).missed = s.missed := rfl
@[simp] theorem State.noteLoss_proof (z : Nat) : (s.noteLoss z).proof = s.proof := rfl
@[simp] theorem State.noteLoss_pending (z : Nat) : (s.noteLoss z).pending = s.pending := rfl

/-! ### replaceTopology -/

@[simp] theorem State.replaceTopology_now (f : Fin 4) : (s.replaceTopology f).now = s.now := rfl
@[simp] theorem State.replaceTopology_strap (f : Fin 4) : (s.replaceTopology f).strap = s.strap := rfl
@[simp] theorem State.replaceTopology_engine (f : Fin 4) : (s.replaceTopology f).engine = s.engine := rfl
@[simp] theorem State.replaceTopology_active (f : Fin 4) : (s.replaceTopology f).active = s.active := rfl
@[simp] theorem State.replaceTopology_staged (f : Fin 4) : (s.replaceTopology f).staged = s.staged := rfl
@[simp] theorem State.replaceTopology_nodes (f : Fin 4) : (s.replaceTopology f).nodes = s.nodes := rfl
@[simp] theorem State.replaceTopology_feeders (f : Fin 4) : (s.replaceTopology f).feeders = s.feeders := rfl
@[simp] theorem State.replaceTopology_verdicts (f : Fin 4) : (s.replaceTopology f).verdicts = s.verdicts := rfl
@[simp] theorem State.replaceTopology_lines (f : Fin 4) : (s.replaceTopology f).lines = s.lines := rfl
@[simp] theorem State.replaceTopology_presence (f : Fin 4) : (s.replaceTopology f).presence = s.presence := rfl
@[simp] theorem State.replaceTopology_presenceDeadline (f : Fin 4) : (s.replaceTopology f).presenceDeadline = s.presenceDeadline := rfl
@[simp] theorem State.replaceTopology_rxSensor (f : Fin 4) : (s.replaceTopology f).rxSensor = s.rxSensor := rfl
@[simp] theorem State.replaceTopology_rxController (f : Fin 4) : (s.replaceTopology f).rxController = s.rxController := rfl
@[simp] theorem State.replaceTopology_awaitingPresence (f : Fin 4) : (s.replaceTopology f).awaitingPresence = s.awaitingPresence := rfl
@[simp] theorem State.replaceTopology_awaitingRouting (f : Fin 4) : (s.replaceTopology f).awaitingRouting = s.awaitingRouting := rfl
@[simp] theorem State.replaceTopology_forwardFifo (f : Fin 4) : (s.replaceTopology f).forwardFifo = s.forwardFifo := rfl
@[simp] theorem State.replaceTopology_sensorQueue (f : Fin 4) : (s.replaceTopology f).sensorQueue = s.sensorQueue := rfl
@[simp] theorem State.replaceTopology_replies (f : Fin 4) : (s.replaceTopology f).replies = s.replies := rfl
@[simp] theorem State.replaceTopology_controllerTx (f : Fin 4) : (s.replaceTopology f).controllerTx = s.controllerTx := rfl
@[simp] theorem State.replaceTopology_sensorTx (f : Fin 4) : (s.replaceTopology f).sensorTx = s.sensorTx := rfl
@[simp] theorem State.replaceTopology_sequence (f : Fin 4) : (s.replaceTopology f).sequence = s.sequence := rfl
@[simp] theorem State.replaceTopology_counters (f : Fin 4) : (s.replaceTopology f).counters = s.counters := rfl
@[simp] theorem State.replaceTopology_rings (f : Fin 4) : (s.replaceTopology f).rings = s.rings := rfl
@[simp] theorem State.replaceTopology_slots (f : Fin 4) : (s.replaceTopology f).slots = s.slots := rfl
@[simp] theorem State.replaceTopology_missed (f : Fin 4) : (s.replaceTopology f).missed = s.missed := rfl
@[simp] theorem State.replaceTopology_proof (f : Fin 4) : (s.replaceTopology f).proof = s.proof := rfl
@[simp] theorem State.replaceTopology_pending (f : Fin 4) : (s.replaceTopology f).pending = s.pending := rfl

/-! ### setRx -/

@[simp] theorem State.setRx_now (p : Port) (r : Receiver) : (s.setRx p r).now = s.now := by cases p <;> rfl
@[simp] theorem State.setRx_strap (p : Port) (r : Receiver) : (s.setRx p r).strap = s.strap := by cases p <;> rfl
@[simp] theorem State.setRx_engine (p : Port) (r : Receiver) : (s.setRx p r).engine = s.engine := by cases p <;> rfl
@[simp] theorem State.setRx_active (p : Port) (r : Receiver) : (s.setRx p r).active = s.active := by cases p <;> rfl
@[simp] theorem State.setRx_staged (p : Port) (r : Receiver) : (s.setRx p r).staged = s.staged := by cases p <;> rfl
@[simp] theorem State.setRx_nodes (p : Port) (r : Receiver) : (s.setRx p r).nodes = s.nodes := by cases p <;> rfl
@[simp] theorem State.setRx_zones (p : Port) (r : Receiver) : (s.setRx p r).zones = s.zones := by cases p <;> rfl
@[simp] theorem State.setRx_feeders (p : Port) (r : Receiver) : (s.setRx p r).feeders = s.feeders := by cases p <;> rfl
@[simp] theorem State.setRx_verdicts (p : Port) (r : Receiver) : (s.setRx p r).verdicts = s.verdicts := by cases p <;> rfl
@[simp] theorem State.setRx_lines (p : Port) (r : Receiver) : (s.setRx p r).lines = s.lines := by cases p <;> rfl
@[simp] theorem State.setRx_presence (p : Port) (r : Receiver) : (s.setRx p r).presence = s.presence := by cases p <;> rfl
@[simp] theorem State.setRx_presenceDeadline (p : Port) (r : Receiver) : (s.setRx p r).presenceDeadline = s.presenceDeadline := by cases p <;> rfl
@[simp] theorem State.setRx_awaitingPresence (p : Port) (r : Receiver) : (s.setRx p r).awaitingPresence = s.awaitingPresence := by cases p <;> rfl
@[simp] theorem State.setRx_awaitingRouting (p : Port) (r : Receiver) : (s.setRx p r).awaitingRouting = s.awaitingRouting := by cases p <;> rfl
@[simp] theorem State.setRx_forwardFifo (p : Port) (r : Receiver) : (s.setRx p r).forwardFifo = s.forwardFifo := by cases p <;> rfl
@[simp] theorem State.setRx_sensorQueue (p : Port) (r : Receiver) : (s.setRx p r).sensorQueue = s.sensorQueue := by cases p <;> rfl
@[simp] theorem State.setRx_replies (p : Port) (r : Receiver) : (s.setRx p r).replies = s.replies := by cases p <;> rfl
@[simp] theorem State.setRx_controllerTx (p : Port) (r : Receiver) : (s.setRx p r).controllerTx = s.controllerTx := by cases p <;> rfl
@[simp] theorem State.setRx_sensorTx (p : Port) (r : Receiver) : (s.setRx p r).sensorTx = s.sensorTx := by cases p <;> rfl
@[simp] theorem State.setRx_sequence (p : Port) (r : Receiver) : (s.setRx p r).sequence = s.sequence := by cases p <;> rfl
@[simp] theorem State.setRx_counters (p : Port) (r : Receiver) : (s.setRx p r).counters = s.counters := by cases p <;> rfl
@[simp] theorem State.setRx_rings (p : Port) (r : Receiver) : (s.setRx p r).rings = s.rings := by cases p <;> rfl
@[simp] theorem State.setRx_slots (p : Port) (r : Receiver) : (s.setRx p r).slots = s.slots := by cases p <;> rfl
@[simp] theorem State.setRx_missed (p : Port) (r : Receiver) : (s.setRx p r).missed = s.missed := by cases p <;> rfl
@[simp] theorem State.setRx_proof (p : Port) (r : Receiver) : (s.setRx p r).proof = s.proof := by cases p <;> rfl
@[simp] theorem State.setRx_pending (p : Port) (r : Receiver) : (s.setRx p r).pending = s.pending := by cases p <;> rfl

/-! ### modCounters -/

@[simp] theorem State.modCounters_now (g : Counters → Counters) : (s.modCounters g).now = s.now := rfl
@[simp] theorem State.modCounters_strap (g : Counters → Counters) : (s.modCounters g).strap = s.strap := rfl
@[simp] theorem State.modCounters_engine (g : Counters → Counters) : (s.modCounters g).engine = s.engine := rfl
@[simp] theorem State.modCounters_active (g : Counters → Counters) : (s.modCounters g).active = s.active := rfl
@[simp] theorem State.modCounters_staged (g : Counters → Counters) : (s.modCounters g).staged = s.staged := rfl
@[simp] theorem State.modCounters_nodes (g : Counters → Counters) : (s.modCounters g).nodes = s.nodes := rfl
@[simp] theorem State.modCounters_zones (g : Counters → Counters) : (s.modCounters g).zones = s.zones := rfl
@[simp] theorem State.modCounters_feeders (g : Counters → Counters) : (s.modCounters g).feeders = s.feeders := rfl
@[simp] theorem State.modCounters_verdicts (g : Counters → Counters) : (s.modCounters g).verdicts = s.verdicts := rfl
@[simp] theorem State.modCounters_lines (g : Counters → Counters) : (s.modCounters g).lines = s.lines := rfl
@[simp] theorem State.modCounters_presence (g : Counters → Counters) : (s.modCounters g).presence = s.presence := rfl
@[simp] theorem State.modCounters_presenceDeadline (g : Counters → Counters) : (s.modCounters g).presenceDeadline = s.presenceDeadline := rfl
@[simp] theorem State.modCounters_rxSensor (g : Counters → Counters) : (s.modCounters g).rxSensor = s.rxSensor := rfl
@[simp] theorem State.modCounters_rxController (g : Counters → Counters) : (s.modCounters g).rxController = s.rxController := rfl
@[simp] theorem State.modCounters_awaitingPresence (g : Counters → Counters) : (s.modCounters g).awaitingPresence = s.awaitingPresence := rfl
@[simp] theorem State.modCounters_awaitingRouting (g : Counters → Counters) : (s.modCounters g).awaitingRouting = s.awaitingRouting := rfl
@[simp] theorem State.modCounters_forwardFifo (g : Counters → Counters) : (s.modCounters g).forwardFifo = s.forwardFifo := rfl
@[simp] theorem State.modCounters_sensorQueue (g : Counters → Counters) : (s.modCounters g).sensorQueue = s.sensorQueue := rfl
@[simp] theorem State.modCounters_replies (g : Counters → Counters) : (s.modCounters g).replies = s.replies := rfl
@[simp] theorem State.modCounters_controllerTx (g : Counters → Counters) : (s.modCounters g).controllerTx = s.controllerTx := rfl
@[simp] theorem State.modCounters_sensorTx (g : Counters → Counters) : (s.modCounters g).sensorTx = s.sensorTx := rfl
@[simp] theorem State.modCounters_sequence (g : Counters → Counters) : (s.modCounters g).sequence = s.sequence := rfl
@[simp] theorem State.modCounters_rings (g : Counters → Counters) : (s.modCounters g).rings = s.rings := rfl
@[simp] theorem State.modCounters_slots (g : Counters → Counters) : (s.modCounters g).slots = s.slots := rfl
@[simp] theorem State.modCounters_missed (g : Counters → Counters) : (s.modCounters g).missed = s.missed := rfl
@[simp] theorem State.modCounters_proof (g : Counters → Counters) : (s.modCounters g).proof = s.proof := rfl
@[simp] theorem State.modCounters_pending (g : Counters → Counters) : (s.modCounters g).pending = s.pending := rfl

/-! ### modPort -/

@[simp] theorem State.modPort_now (p : Port) (g : PortCounters → PortCounters) : (s.modPort p g).now = s.now := rfl
@[simp] theorem State.modPort_strap (p : Port) (g : PortCounters → PortCounters) : (s.modPort p g).strap = s.strap := rfl
@[simp] theorem State.modPort_engine (p : Port) (g : PortCounters → PortCounters) : (s.modPort p g).engine = s.engine := rfl
@[simp] theorem State.modPort_active (p : Port) (g : PortCounters → PortCounters) : (s.modPort p g).active = s.active := rfl
@[simp] theorem State.modPort_staged (p : Port) (g : PortCounters → PortCounters) : (s.modPort p g).staged = s.staged := rfl
@[simp] theorem State.modPort_nodes (p : Port) (g : PortCounters → PortCounters) : (s.modPort p g).nodes = s.nodes := rfl
@[simp] theorem State.modPort_zones (p : Port) (g : PortCounters → PortCounters) : (s.modPort p g).zones = s.zones := rfl
@[simp] theorem State.modPort_feeders (p : Port) (g : PortCounters → PortCounters) : (s.modPort p g).feeders = s.feeders := rfl
@[simp] theorem State.modPort_verdicts (p : Port) (g : PortCounters → PortCounters) : (s.modPort p g).verdicts = s.verdicts := rfl
@[simp] theorem State.modPort_lines (p : Port) (g : PortCounters → PortCounters) : (s.modPort p g).lines = s.lines := rfl
@[simp] theorem State.modPort_presence (p : Port) (g : PortCounters → PortCounters) : (s.modPort p g).presence = s.presence := rfl
@[simp] theorem State.modPort_presenceDeadline (p : Port) (g : PortCounters → PortCounters) : (s.modPort p g).presenceDeadline = s.presenceDeadline := rfl
@[simp] theorem State.modPort_rxSensor (p : Port) (g : PortCounters → PortCounters) : (s.modPort p g).rxSensor = s.rxSensor := rfl
@[simp] theorem State.modPort_rxController (p : Port) (g : PortCounters → PortCounters) : (s.modPort p g).rxController = s.rxController := rfl
@[simp] theorem State.modPort_awaitingPresence (p : Port) (g : PortCounters → PortCounters) : (s.modPort p g).awaitingPresence = s.awaitingPresence := rfl
@[simp] theorem State.modPort_awaitingRouting (p : Port) (g : PortCounters → PortCounters) : (s.modPort p g).awaitingRouting = s.awaitingRouting := rfl
@[simp] theorem State.modPort_forwardFifo (p : Port) (g : PortCounters → PortCounters) : (s.modPort p g).forwardFifo = s.forwardFifo := rfl
@[simp] theorem State.modPort_sensorQueue (p : Port) (g : PortCounters → PortCounters) : (s.modPort p g).sensorQueue = s.sensorQueue := rfl
@[simp] theorem State.modPort_replies (p : Port) (g : PortCounters → PortCounters) : (s.modPort p g).replies = s.replies := rfl
@[simp] theorem State.modPort_controllerTx (p : Port) (g : PortCounters → PortCounters) : (s.modPort p g).controllerTx = s.controllerTx := rfl
@[simp] theorem State.modPort_sensorTx (p : Port) (g : PortCounters → PortCounters) : (s.modPort p g).sensorTx = s.sensorTx := rfl
@[simp] theorem State.modPort_sequence (p : Port) (g : PortCounters → PortCounters) : (s.modPort p g).sequence = s.sequence := rfl
@[simp] theorem State.modPort_rings (p : Port) (g : PortCounters → PortCounters) : (s.modPort p g).rings = s.rings := rfl
@[simp] theorem State.modPort_slots (p : Port) (g : PortCounters → PortCounters) : (s.modPort p g).slots = s.slots := rfl
@[simp] theorem State.modPort_missed (p : Port) (g : PortCounters → PortCounters) : (s.modPort p g).missed = s.missed := rfl
@[simp] theorem State.modPort_proof (p : Port) (g : PortCounters → PortCounters) : (s.modPort p g).proof = s.proof := rfl
@[simp] theorem State.modPort_pending (p : Port) (g : PortCounters → PortCounters) : (s.modPort p g).pending = s.pending := rfl

/-! ### tick -/

@[simp] theorem State.tick_strap : (s.tick).strap = s.strap := rfl
@[simp] theorem State.tick_engine : (s.tick).engine = s.engine := rfl
@[simp] theorem State.tick_active : (s.tick).active = s.active := rfl
@[simp] theorem State.tick_staged : (s.tick).staged = s.staged := rfl
@[simp] theorem State.tick_nodes : (s.tick).nodes = s.nodes := rfl
@[simp] theorem State.tick_zones : (s.tick).zones = s.zones := rfl
@[simp] theorem State.tick_feeders : (s.tick).feeders = s.feeders := rfl
@[simp] theorem State.tick_verdicts : (s.tick).verdicts = s.verdicts := rfl
@[simp] theorem State.tick_lines : (s.tick).lines = s.lines := rfl
@[simp] theorem State.tick_presence : (s.tick).presence = s.presence := rfl
@[simp] theorem State.tick_presenceDeadline : (s.tick).presenceDeadline = s.presenceDeadline := rfl
@[simp] theorem State.tick_rxSensor : (s.tick).rxSensor = s.rxSensor := rfl
@[simp] theorem State.tick_rxController : (s.tick).rxController = s.rxController := rfl
@[simp] theorem State.tick_awaitingPresence : (s.tick).awaitingPresence = s.awaitingPresence := rfl
@[simp] theorem State.tick_awaitingRouting : (s.tick).awaitingRouting = s.awaitingRouting := rfl
@[simp] theorem State.tick_forwardFifo : (s.tick).forwardFifo = s.forwardFifo := rfl
@[simp] theorem State.tick_sensorQueue : (s.tick).sensorQueue = s.sensorQueue := rfl
@[simp] theorem State.tick_replies : (s.tick).replies = s.replies := rfl
@[simp] theorem State.tick_controllerTx : (s.tick).controllerTx = s.controllerTx := rfl
@[simp] theorem State.tick_sensorTx : (s.tick).sensorTx = s.sensorTx := rfl
@[simp] theorem State.tick_sequence : (s.tick).sequence = s.sequence := rfl
@[simp] theorem State.tick_counters : (s.tick).counters = s.counters := rfl
@[simp] theorem State.tick_rings : (s.tick).rings = s.rings := rfl
@[simp] theorem State.tick_slots : (s.tick).slots = s.slots := rfl
@[simp] theorem State.tick_missed : (s.tick).missed = s.missed := rfl
@[simp] theorem State.tick_proof : (s.tick).proof = s.proof := rfl
@[simp] theorem State.tick_pending : (s.tick).pending = s.pending := rfl

/-! ### pushReply -/

@[simp] theorem State.pushReply_now (r : ReplyEntry) : (s.pushReply r).now = s.now := rfl
@[simp] theorem State.pushReply_strap (r : ReplyEntry) : (s.pushReply r).strap = s.strap := rfl
@[simp] theorem State.pushReply_engine (r : ReplyEntry) : (s.pushReply r).engine = s.engine := rfl
@[simp] theorem State.pushReply_active (r : ReplyEntry) : (s.pushReply r).active = s.active := rfl
@[simp] theorem State.pushReply_staged (r : ReplyEntry) : (s.pushReply r).staged = s.staged := rfl
@[simp] theorem State.pushReply_nodes (r : ReplyEntry) : (s.pushReply r).nodes = s.nodes := rfl
@[simp] theorem State.pushReply_zones (r : ReplyEntry) : (s.pushReply r).zones = s.zones := rfl
@[simp] theorem State.pushReply_feeders (r : ReplyEntry) : (s.pushReply r).feeders = s.feeders := rfl
@[simp] theorem State.pushReply_verdicts (r : ReplyEntry) : (s.pushReply r).verdicts = s.verdicts := rfl
@[simp] theorem State.pushReply_lines (r : ReplyEntry) : (s.pushReply r).lines = s.lines := rfl
@[simp] theorem State.pushReply_presence (r : ReplyEntry) : (s.pushReply r).presence = s.presence := rfl
@[simp] theorem State.pushReply_presenceDeadline (r : ReplyEntry) : (s.pushReply r).presenceDeadline = s.presenceDeadline := rfl
@[simp] theorem State.pushReply_rxSensor (r : ReplyEntry) : (s.pushReply r).rxSensor = s.rxSensor := rfl
@[simp] theorem State.pushReply_rxController (r : ReplyEntry) : (s.pushReply r).rxController = s.rxController := rfl
@[simp] theorem State.pushReply_awaitingPresence (r : ReplyEntry) : (s.pushReply r).awaitingPresence = s.awaitingPresence := rfl
@[simp] theorem State.pushReply_awaitingRouting (r : ReplyEntry) : (s.pushReply r).awaitingRouting = s.awaitingRouting := rfl
@[simp] theorem State.pushReply_forwardFifo (r : ReplyEntry) : (s.pushReply r).forwardFifo = s.forwardFifo := rfl
@[simp] theorem State.pushReply_sensorQueue (r : ReplyEntry) : (s.pushReply r).sensorQueue = s.sensorQueue := rfl
@[simp] theorem State.pushReply_controllerTx (r : ReplyEntry) : (s.pushReply r).controllerTx = s.controllerTx := rfl
@[simp] theorem State.pushReply_sensorTx (r : ReplyEntry) : (s.pushReply r).sensorTx = s.sensorTx := rfl
@[simp] theorem State.pushReply_sequence (r : ReplyEntry) : (s.pushReply r).sequence = s.sequence := rfl
@[simp] theorem State.pushReply_counters (r : ReplyEntry) : (s.pushReply r).counters = s.counters := rfl
@[simp] theorem State.pushReply_rings (r : ReplyEntry) : (s.pushReply r).rings = s.rings := rfl
@[simp] theorem State.pushReply_slots (r : ReplyEntry) : (s.pushReply r).slots = s.slots := rfl
@[simp] theorem State.pushReply_missed (r : ReplyEntry) : (s.pushReply r).missed = s.missed := rfl
@[simp] theorem State.pushReply_proof (r : ReplyEntry) : (s.pushReply r).proof = s.proof := rfl
@[simp] theorem State.pushReply_pending (r : ReplyEntry) : (s.pushReply r).pending = s.pending := rfl

/-! ### flushHeld -/

@[simp] theorem State.flushHeld_now : (s.flushHeld).now = s.now := rfl
@[simp] theorem State.flushHeld_strap : (s.flushHeld).strap = s.strap := rfl
@[simp] theorem State.flushHeld_engine : (s.flushHeld).engine = s.engine := rfl
@[simp] theorem State.flushHeld_active : (s.flushHeld).active = s.active := rfl
@[simp] theorem State.flushHeld_staged : (s.flushHeld).staged = s.staged := rfl
@[simp] theorem State.flushHeld_nodes : (s.flushHeld).nodes = s.nodes := rfl
@[simp] theorem State.flushHeld_zones : (s.flushHeld).zones = s.zones := rfl
@[simp] theorem State.flushHeld_feeders : (s.flushHeld).feeders = s.feeders := rfl
@[simp] theorem State.flushHeld_verdicts : (s.flushHeld).verdicts = s.verdicts := rfl
@[simp] theorem State.flushHeld_lines : (s.flushHeld).lines = s.lines := rfl
@[simp] theorem State.flushHeld_presence : (s.flushHeld).presence = s.presence := rfl
@[simp] theorem State.flushHeld_presenceDeadline : (s.flushHeld).presenceDeadline = s.presenceDeadline := rfl
@[simp] theorem State.flushHeld_rxSensor : (s.flushHeld).rxSensor = s.rxSensor := rfl
@[simp] theorem State.flushHeld_rxController : (s.flushHeld).rxController = s.rxController := rfl
@[simp] theorem State.flushHeld_awaitingPresence : (s.flushHeld).awaitingPresence = s.awaitingPresence := rfl
@[simp] theorem State.flushHeld_awaitingRouting : (s.flushHeld).awaitingRouting = s.awaitingRouting := rfl
@[simp] theorem State.flushHeld_forwardFifo : (s.flushHeld).forwardFifo = s.forwardFifo := rfl
@[simp] theorem State.flushHeld_sensorQueue : (s.flushHeld).sensorQueue = s.sensorQueue := rfl
@[simp] theorem State.flushHeld_controllerTx : (s.flushHeld).controllerTx = s.controllerTx := rfl
@[simp] theorem State.flushHeld_sensorTx : (s.flushHeld).sensorTx = s.sensorTx := rfl
@[simp] theorem State.flushHeld_sequence : (s.flushHeld).sequence = s.sequence := rfl
@[simp] theorem State.flushHeld_counters : (s.flushHeld).counters = s.counters := rfl
@[simp] theorem State.flushHeld_rings : (s.flushHeld).rings = s.rings := rfl
@[simp] theorem State.flushHeld_slots : (s.flushHeld).slots = s.slots := rfl
@[simp] theorem State.flushHeld_missed : (s.flushHeld).missed = s.missed := rfl
@[simp] theorem State.flushHeld_pending : (s.flushHeld).pending = s.pending := rfl

/-! ### completeProof -/

@[simp] theorem State.completeProof_now (st : Status) (d : List Byte) : (s.completeProof st d).now = s.now := rfl
@[simp] theorem State.completeProof_strap (st : Status) (d : List Byte) : (s.completeProof st d).strap = s.strap := rfl
@[simp] theorem State.completeProof_engine (st : Status) (d : List Byte) : (s.completeProof st d).engine = s.engine := rfl
@[simp] theorem State.completeProof_active (st : Status) (d : List Byte) : (s.completeProof st d).active = s.active := rfl
@[simp] theorem State.completeProof_staged (st : Status) (d : List Byte) : (s.completeProof st d).staged = s.staged := rfl
@[simp] theorem State.completeProof_nodes (st : Status) (d : List Byte) : (s.completeProof st d).nodes = s.nodes := rfl
@[simp] theorem State.completeProof_zones (st : Status) (d : List Byte) : (s.completeProof st d).zones = s.zones := rfl
@[simp] theorem State.completeProof_feeders (st : Status) (d : List Byte) : (s.completeProof st d).feeders = s.feeders := rfl
@[simp] theorem State.completeProof_verdicts (st : Status) (d : List Byte) : (s.completeProof st d).verdicts = s.verdicts := rfl
@[simp] theorem State.completeProof_lines (st : Status) (d : List Byte) : (s.completeProof st d).lines = s.lines := rfl
@[simp] theorem State.completeProof_presence (st : Status) (d : List Byte) : (s.completeProof st d).presence = s.presence := rfl
@[simp] theorem State.completeProof_presenceDeadline (st : Status) (d : List Byte) : (s.completeProof st d).presenceDeadline = s.presenceDeadline := rfl
@[simp] theorem State.completeProof_rxSensor (st : Status) (d : List Byte) : (s.completeProof st d).rxSensor = s.rxSensor := rfl
@[simp] theorem State.completeProof_rxController (st : Status) (d : List Byte) : (s.completeProof st d).rxController = s.rxController := rfl
@[simp] theorem State.completeProof_awaitingPresence (st : Status) (d : List Byte) : (s.completeProof st d).awaitingPresence = s.awaitingPresence := rfl
@[simp] theorem State.completeProof_awaitingRouting (st : Status) (d : List Byte) : (s.completeProof st d).awaitingRouting = s.awaitingRouting := rfl
@[simp] theorem State.completeProof_forwardFifo (st : Status) (d : List Byte) : (s.completeProof st d).forwardFifo = s.forwardFifo := rfl
@[simp] theorem State.completeProof_sensorQueue (st : Status) (d : List Byte) : (s.completeProof st d).sensorQueue = s.sensorQueue := rfl
@[simp] theorem State.completeProof_replies (st : Status) (d : List Byte) : (s.completeProof st d).replies = s.replies := rfl
@[simp] theorem State.completeProof_controllerTx (st : Status) (d : List Byte) : (s.completeProof st d).controllerTx = s.controllerTx := rfl
@[simp] theorem State.completeProof_sensorTx (st : Status) (d : List Byte) : (s.completeProof st d).sensorTx = s.sensorTx := rfl
@[simp] theorem State.completeProof_sequence (st : Status) (d : List Byte) : (s.completeProof st d).sequence = s.sequence := rfl
@[simp] theorem State.completeProof_counters (st : Status) (d : List Byte) : (s.completeProof st d).counters = s.counters := rfl
@[simp] theorem State.completeProof_rings (st : Status) (d : List Byte) : (s.completeProof st d).rings = s.rings := rfl
@[simp] theorem State.completeProof_slots (st : Status) (d : List Byte) : (s.completeProof st d).slots = s.slots := rfl
@[simp] theorem State.completeProof_missed (st : Status) (d : List Byte) : (s.completeProof st d).missed = s.missed := rfl
@[simp] theorem State.completeProof_pending (st : Status) (d : List Byte) : (s.completeProof st d).pending = s.pending := rfl

/-! ### raise -/

@[simp] theorem State.raise_now (z : Nat) (k : VerdictKind) : (s.raise z k).now = s.now := rfl
@[simp] theorem State.raise_strap (z : Nat) (k : VerdictKind) : (s.raise z k).strap = s.strap := rfl
@[simp] theorem State.raise_engine (z : Nat) (k : VerdictKind) : (s.raise z k).engine = s.engine := rfl
@[simp] theorem State.raise_active (z : Nat) (k : VerdictKind) : (s.raise z k).active = s.active := rfl
@[simp] theorem State.raise_staged (z : Nat) (k : VerdictKind) : (s.raise z k).staged = s.staged := rfl
@[simp] theorem State.raise_nodes (z : Nat) (k : VerdictKind) : (s.raise z k).nodes = s.nodes := rfl
@[simp] theorem State.raise_zones (z : Nat) (k : VerdictKind) : (s.raise z k).zones = s.zones := rfl
@[simp] theorem State.raise_feeders (z : Nat) (k : VerdictKind) : (s.raise z k).feeders = s.feeders := rfl
@[simp] theorem State.raise_lines (z : Nat) (k : VerdictKind) : (s.raise z k).lines = s.lines := rfl
@[simp] theorem State.raise_presence (z : Nat) (k : VerdictKind) : (s.raise z k).presence = s.presence := rfl
@[simp] theorem State.raise_presenceDeadline (z : Nat) (k : VerdictKind) : (s.raise z k).presenceDeadline = s.presenceDeadline := rfl
@[simp] theorem State.raise_rxSensor (z : Nat) (k : VerdictKind) : (s.raise z k).rxSensor = s.rxSensor := rfl
@[simp] theorem State.raise_rxController (z : Nat) (k : VerdictKind) : (s.raise z k).rxController = s.rxController := rfl
@[simp] theorem State.raise_awaitingPresence (z : Nat) (k : VerdictKind) : (s.raise z k).awaitingPresence = s.awaitingPresence := rfl
@[simp] theorem State.raise_awaitingRouting (z : Nat) (k : VerdictKind) : (s.raise z k).awaitingRouting = s.awaitingRouting := rfl
@[simp] theorem State.raise_forwardFifo (z : Nat) (k : VerdictKind) : (s.raise z k).forwardFifo = s.forwardFifo := rfl
@[simp] theorem State.raise_sensorQueue (z : Nat) (k : VerdictKind) : (s.raise z k).sensorQueue = s.sensorQueue := rfl
@[simp] theorem State.raise_replies (z : Nat) (k : VerdictKind) : (s.raise z k).replies = s.replies := rfl
@[simp] theorem State.raise_controllerTx (z : Nat) (k : VerdictKind) : (s.raise z k).controllerTx = s.controllerTx := rfl
@[simp] theorem State.raise_sensorTx (z : Nat) (k : VerdictKind) : (s.raise z k).sensorTx = s.sensorTx := rfl
@[simp] theorem State.raise_sequence (z : Nat) (k : VerdictKind) : (s.raise z k).sequence = s.sequence := rfl
@[simp] theorem State.raise_counters (z : Nat) (k : VerdictKind) : (s.raise z k).counters = s.counters := rfl
@[simp] theorem State.raise_rings (z : Nat) (k : VerdictKind) : (s.raise z k).rings = s.rings := rfl
@[simp] theorem State.raise_slots (z : Nat) (k : VerdictKind) : (s.raise z k).slots = s.slots := rfl
@[simp] theorem State.raise_missed (z : Nat) (k : VerdictKind) : (s.raise z k).missed = s.missed := rfl
@[simp] theorem State.raise_proof (z : Nat) (k : VerdictKind) : (s.raise z k).proof = s.proof := rfl
@[simp] theorem State.raise_pending (z : Nat) (k : VerdictKind) : (s.raise z k).pending = s.pending := rfl

/-! ### recomputeLines -/

@[simp] theorem State.recomputeLines_now : (s.recomputeLines).now = s.now := rfl
@[simp] theorem State.recomputeLines_strap : (s.recomputeLines).strap = s.strap := rfl
@[simp] theorem State.recomputeLines_engine : (s.recomputeLines).engine = s.engine := rfl
@[simp] theorem State.recomputeLines_active : (s.recomputeLines).active = s.active := rfl
@[simp] theorem State.recomputeLines_staged : (s.recomputeLines).staged = s.staged := rfl
@[simp] theorem State.recomputeLines_nodes : (s.recomputeLines).nodes = s.nodes := rfl
@[simp] theorem State.recomputeLines_zones : (s.recomputeLines).zones = s.zones := rfl
@[simp] theorem State.recomputeLines_feeders : (s.recomputeLines).feeders = s.feeders := rfl
@[simp] theorem State.recomputeLines_verdicts : (s.recomputeLines).verdicts = s.verdicts := rfl
@[simp] theorem State.recomputeLines_presence : (s.recomputeLines).presence = s.presence := rfl
@[simp] theorem State.recomputeLines_presenceDeadline : (s.recomputeLines).presenceDeadline = s.presenceDeadline := rfl
@[simp] theorem State.recomputeLines_rxSensor : (s.recomputeLines).rxSensor = s.rxSensor := rfl
@[simp] theorem State.recomputeLines_rxController : (s.recomputeLines).rxController = s.rxController := rfl
@[simp] theorem State.recomputeLines_awaitingPresence : (s.recomputeLines).awaitingPresence = s.awaitingPresence := rfl
@[simp] theorem State.recomputeLines_awaitingRouting : (s.recomputeLines).awaitingRouting = s.awaitingRouting := rfl
@[simp] theorem State.recomputeLines_forwardFifo : (s.recomputeLines).forwardFifo = s.forwardFifo := rfl
@[simp] theorem State.recomputeLines_sensorQueue : (s.recomputeLines).sensorQueue = s.sensorQueue := rfl
@[simp] theorem State.recomputeLines_replies : (s.recomputeLines).replies = s.replies := rfl
@[simp] theorem State.recomputeLines_controllerTx : (s.recomputeLines).controllerTx = s.controllerTx := rfl
@[simp] theorem State.recomputeLines_sensorTx : (s.recomputeLines).sensorTx = s.sensorTx := rfl
@[simp] theorem State.recomputeLines_sequence : (s.recomputeLines).sequence = s.sequence := rfl
@[simp] theorem State.recomputeLines_counters : (s.recomputeLines).counters = s.counters := rfl
@[simp] theorem State.recomputeLines_rings : (s.recomputeLines).rings = s.rings := rfl
@[simp] theorem State.recomputeLines_slots : (s.recomputeLines).slots = s.slots := rfl
@[simp] theorem State.recomputeLines_missed : (s.recomputeLines).missed = s.missed := rfl
@[simp] theorem State.recomputeLines_pending : (s.recomputeLines).pending = s.pending := rfl

/-! ### modStaged -/

@[simp] theorem State.modStaged_now (g : Tables → Tables) : (s.modStaged g).now = s.now := rfl
@[simp] theorem State.modStaged_strap (g : Tables → Tables) : (s.modStaged g).strap = s.strap := rfl
@[simp] theorem State.modStaged_engine (g : Tables → Tables) : (s.modStaged g).engine = s.engine := rfl
@[simp] theorem State.modStaged_active (g : Tables → Tables) : (s.modStaged g).active = s.active := rfl
@[simp] theorem State.modStaged_nodes (g : Tables → Tables) : (s.modStaged g).nodes = s.nodes := rfl
@[simp] theorem State.modStaged_zones (g : Tables → Tables) : (s.modStaged g).zones = s.zones := rfl
@[simp] theorem State.modStaged_feeders (g : Tables → Tables) : (s.modStaged g).feeders = s.feeders := rfl
@[simp] theorem State.modStaged_verdicts (g : Tables → Tables) : (s.modStaged g).verdicts = s.verdicts := rfl
@[simp] theorem State.modStaged_lines (g : Tables → Tables) : (s.modStaged g).lines = s.lines := rfl
@[simp] theorem State.modStaged_presence (g : Tables → Tables) : (s.modStaged g).presence = s.presence := rfl
@[simp] theorem State.modStaged_presenceDeadline (g : Tables → Tables) : (s.modStaged g).presenceDeadline = s.presenceDeadline := rfl
@[simp] theorem State.modStaged_rxSensor (g : Tables → Tables) : (s.modStaged g).rxSensor = s.rxSensor := rfl
@[simp] theorem State.modStaged_rxController (g : Tables → Tables) : (s.modStaged g).rxController = s.rxController := rfl
@[simp] theorem State.modStaged_awaitingPresence (g : Tables → Tables) : (s.modStaged g).awaitingPresence = s.awaitingPresence := rfl
@[simp] theorem State.modStaged_awaitingRouting (g : Tables → Tables) : (s.modStaged g).awaitingRouting = s.awaitingRouting := rfl
@[simp] theorem State.modStaged_forwardFifo (g : Tables → Tables) : (s.modStaged g).forwardFifo = s.forwardFifo := rfl
@[simp] theorem State.modStaged_sensorQueue (g : Tables → Tables) : (s.modStaged g).sensorQueue = s.sensorQueue := rfl
@[simp] theorem State.modStaged_replies (g : Tables → Tables) : (s.modStaged g).replies = s.replies := rfl
@[simp] theorem State.modStaged_controllerTx (g : Tables → Tables) : (s.modStaged g).controllerTx = s.controllerTx := rfl
@[simp] theorem State.modStaged_sensorTx (g : Tables → Tables) : (s.modStaged g).sensorTx = s.sensorTx := rfl
@[simp] theorem State.modStaged_sequence (g : Tables → Tables) : (s.modStaged g).sequence = s.sequence := rfl
@[simp] theorem State.modStaged_counters (g : Tables → Tables) : (s.modStaged g).counters = s.counters := rfl
@[simp] theorem State.modStaged_rings (g : Tables → Tables) : (s.modStaged g).rings = s.rings := rfl
@[simp] theorem State.modStaged_slots (g : Tables → Tables) : (s.modStaged g).slots = s.slots := rfl
@[simp] theorem State.modStaged_missed (g : Tables → Tables) : (s.modStaged g).missed = s.missed := rfl
@[simp] theorem State.modStaged_proof (g : Tables → Tables) : (s.modStaged g).proof = s.proof := rfl
@[simp] theorem State.modStaged_pending (g : Tables → Tables) : (s.modStaged g).pending = s.pending := rfl

/-! ### requestMode -/

@[simp] theorem State.requestMode_now (f : Fin 4) (m : Mode) : (s.requestMode f m).now = s.now := rfl
@[simp] theorem State.requestMode_strap (f : Fin 4) (m : Mode) : (s.requestMode f m).strap = s.strap := rfl
@[simp] theorem State.requestMode_engine (f : Fin 4) (m : Mode) : (s.requestMode f m).engine = s.engine := rfl
@[simp] theorem State.requestMode_active (f : Fin 4) (m : Mode) : (s.requestMode f m).active = s.active := rfl
@[simp] theorem State.requestMode_staged (f : Fin 4) (m : Mode) : (s.requestMode f m).staged = s.staged := rfl
@[simp] theorem State.requestMode_nodes (f : Fin 4) (m : Mode) : (s.requestMode f m).nodes = s.nodes := rfl
@[simp] theorem State.requestMode_zones (f : Fin 4) (m : Mode) : (s.requestMode f m).zones = s.zones := rfl
@[simp] theorem State.requestMode_verdicts (f : Fin 4) (m : Mode) : (s.requestMode f m).verdicts = s.verdicts := rfl
@[simp] theorem State.requestMode_lines (f : Fin 4) (m : Mode) : (s.requestMode f m).lines = s.lines := rfl
@[simp] theorem State.requestMode_presence (f : Fin 4) (m : Mode) : (s.requestMode f m).presence = s.presence := rfl
@[simp] theorem State.requestMode_presenceDeadline (f : Fin 4) (m : Mode) : (s.requestMode f m).presenceDeadline = s.presenceDeadline := rfl
@[simp] theorem State.requestMode_rxSensor (f : Fin 4) (m : Mode) : (s.requestMode f m).rxSensor = s.rxSensor := rfl
@[simp] theorem State.requestMode_rxController (f : Fin 4) (m : Mode) : (s.requestMode f m).rxController = s.rxController := rfl
@[simp] theorem State.requestMode_awaitingPresence (f : Fin 4) (m : Mode) : (s.requestMode f m).awaitingPresence = s.awaitingPresence := rfl
@[simp] theorem State.requestMode_awaitingRouting (f : Fin 4) (m : Mode) : (s.requestMode f m).awaitingRouting = s.awaitingRouting := rfl
@[simp] theorem State.requestMode_forwardFifo (f : Fin 4) (m : Mode) : (s.requestMode f m).forwardFifo = s.forwardFifo := rfl
@[simp] theorem State.requestMode_sensorQueue (f : Fin 4) (m : Mode) : (s.requestMode f m).sensorQueue = s.sensorQueue := rfl
@[simp] theorem State.requestMode_replies (f : Fin 4) (m : Mode) : (s.requestMode f m).replies = s.replies := rfl
@[simp] theorem State.requestMode_controllerTx (f : Fin 4) (m : Mode) : (s.requestMode f m).controllerTx = s.controllerTx := rfl
@[simp] theorem State.requestMode_sensorTx (f : Fin 4) (m : Mode) : (s.requestMode f m).sensorTx = s.sensorTx := rfl
@[simp] theorem State.requestMode_sequence (f : Fin 4) (m : Mode) : (s.requestMode f m).sequence = s.sequence := rfl
@[simp] theorem State.requestMode_counters (f : Fin 4) (m : Mode) : (s.requestMode f m).counters = s.counters := rfl
@[simp] theorem State.requestMode_rings (f : Fin 4) (m : Mode) : (s.requestMode f m).rings = s.rings := rfl
@[simp] theorem State.requestMode_slots (f : Fin 4) (m : Mode) : (s.requestMode f m).slots = s.slots := rfl
@[simp] theorem State.requestMode_missed (f : Fin 4) (m : Mode) : (s.requestMode f m).missed = s.missed := rfl
@[simp] theorem State.requestMode_proof (f : Fin 4) (m : Mode) : (s.requestMode f m).proof = s.proof := rfl
@[simp] theorem State.requestMode_pending (f : Fin 4) (m : Mode) : (s.requestMode f m).pending = s.pending := rfl

/-! ### rearm -/

@[simp] theorem State.rearm_now (f : Fin 4) : (s.rearm f).now = s.now := rfl
@[simp] theorem State.rearm_strap (f : Fin 4) : (s.rearm f).strap = s.strap := rfl
@[simp] theorem State.rearm_engine (f : Fin 4) : (s.rearm f).engine = s.engine := rfl
@[simp] theorem State.rearm_active (f : Fin 4) : (s.rearm f).active = s.active := rfl
@[simp] theorem State.rearm_staged (f : Fin 4) : (s.rearm f).staged = s.staged := rfl
@[simp] theorem State.rearm_nodes (f : Fin 4) : (s.rearm f).nodes = s.nodes := rfl
@[simp] theorem State.rearm_zones (f : Fin 4) : (s.rearm f).zones = s.zones := rfl
@[simp] theorem State.rearm_verdicts (f : Fin 4) : (s.rearm f).verdicts = s.verdicts := rfl
@[simp] theorem State.rearm_lines (f : Fin 4) : (s.rearm f).lines = s.lines := rfl
@[simp] theorem State.rearm_presence (f : Fin 4) : (s.rearm f).presence = s.presence := rfl
@[simp] theorem State.rearm_presenceDeadline (f : Fin 4) : (s.rearm f).presenceDeadline = s.presenceDeadline := rfl
@[simp] theorem State.rearm_rxSensor (f : Fin 4) : (s.rearm f).rxSensor = s.rxSensor := rfl
@[simp] theorem State.rearm_rxController (f : Fin 4) : (s.rearm f).rxController = s.rxController := rfl
@[simp] theorem State.rearm_awaitingPresence (f : Fin 4) : (s.rearm f).awaitingPresence = s.awaitingPresence := rfl
@[simp] theorem State.rearm_awaitingRouting (f : Fin 4) : (s.rearm f).awaitingRouting = s.awaitingRouting := rfl
@[simp] theorem State.rearm_forwardFifo (f : Fin 4) : (s.rearm f).forwardFifo = s.forwardFifo := rfl
@[simp] theorem State.rearm_sensorQueue (f : Fin 4) : (s.rearm f).sensorQueue = s.sensorQueue := rfl
@[simp] theorem State.rearm_replies (f : Fin 4) : (s.rearm f).replies = s.replies := rfl
@[simp] theorem State.rearm_controllerTx (f : Fin 4) : (s.rearm f).controllerTx = s.controllerTx := rfl
@[simp] theorem State.rearm_sensorTx (f : Fin 4) : (s.rearm f).sensorTx = s.sensorTx := rfl
@[simp] theorem State.rearm_sequence (f : Fin 4) : (s.rearm f).sequence = s.sequence := rfl
@[simp] theorem State.rearm_counters (f : Fin 4) : (s.rearm f).counters = s.counters := rfl
@[simp] theorem State.rearm_rings (f : Fin 4) : (s.rearm f).rings = s.rings := rfl
@[simp] theorem State.rearm_slots (f : Fin 4) : (s.rearm f).slots = s.slots := rfl
@[simp] theorem State.rearm_missed (f : Fin 4) : (s.rearm f).missed = s.missed := rfl
@[simp] theorem State.rearm_proof (f : Fin 4) : (s.rearm f).proof = s.proof := rfl
@[simp] theorem State.rearm_pending (f : Fin 4) : (s.rearm f).pending = s.pending := rfl

/-! ### armAll -/

@[simp] theorem State.armAll_now : (s.armAll).now = s.now := rfl
@[simp] theorem State.armAll_strap : (s.armAll).strap = s.strap := rfl
@[simp] theorem State.armAll_engine : (s.armAll).engine = s.engine := rfl
@[simp] theorem State.armAll_active : (s.armAll).active = s.active := rfl
@[simp] theorem State.armAll_staged : (s.armAll).staged = s.staged := rfl
@[simp] theorem State.armAll_nodes : (s.armAll).nodes = s.nodes := rfl
@[simp] theorem State.armAll_zones : (s.armAll).zones = s.zones := rfl
@[simp] theorem State.armAll_verdicts : (s.armAll).verdicts = s.verdicts := rfl
@[simp] theorem State.armAll_lines : (s.armAll).lines = s.lines := rfl
@[simp] theorem State.armAll_presence : (s.armAll).presence = s.presence := rfl
@[simp] theorem State.armAll_presenceDeadline : (s.armAll).presenceDeadline = s.presenceDeadline := rfl
@[simp] theorem State.armAll_rxSensor : (s.armAll).rxSensor = s.rxSensor := rfl
@[simp] theorem State.armAll_rxController : (s.armAll).rxController = s.rxController := rfl
@[simp] theorem State.armAll_awaitingPresence : (s.armAll).awaitingPresence = s.awaitingPresence := rfl
@[simp] theorem State.armAll_awaitingRouting : (s.armAll).awaitingRouting = s.awaitingRouting := rfl
@[simp] theorem State.armAll_forwardFifo : (s.armAll).forwardFifo = s.forwardFifo := rfl
@[simp] theorem State.armAll_sensorQueue : (s.armAll).sensorQueue = s.sensorQueue := rfl
@[simp] theorem State.armAll_replies : (s.armAll).replies = s.replies := rfl
@[simp] theorem State.armAll_controllerTx : (s.armAll).controllerTx = s.controllerTx := rfl
@[simp] theorem State.armAll_sensorTx : (s.armAll).sensorTx = s.sensorTx := rfl
@[simp] theorem State.armAll_sequence : (s.armAll).sequence = s.sequence := rfl
@[simp] theorem State.armAll_counters : (s.armAll).counters = s.counters := rfl
@[simp] theorem State.armAll_rings : (s.armAll).rings = s.rings := rfl
@[simp] theorem State.armAll_slots : (s.armAll).slots = s.slots := rfl
@[simp] theorem State.armAll_missed : (s.armAll).missed = s.missed := rfl
@[simp] theorem State.armAll_proof : (s.armAll).proof = s.proof := rfl
@[simp] theorem State.armAll_pending : (s.armAll).pending = s.pending := rfl

/-! ### swapTables -/

@[simp] theorem State.swapTables_now : (s.swapTables).now = s.now := rfl
@[simp] theorem State.swapTables_strap : (s.swapTables).strap = s.strap := rfl
@[simp] theorem State.swapTables_engine : (s.swapTables).engine = s.engine := rfl
@[simp] theorem State.swapTables_feeders : (s.swapTables).feeders = s.feeders := rfl
@[simp] theorem State.swapTables_lines : (s.swapTables).lines = s.lines := rfl
@[simp] theorem State.swapTables_presence : (s.swapTables).presence = s.presence := rfl
@[simp] theorem State.swapTables_presenceDeadline : (s.swapTables).presenceDeadline = s.presenceDeadline := rfl
@[simp] theorem State.swapTables_rxSensor : (s.swapTables).rxSensor = s.rxSensor := rfl
@[simp] theorem State.swapTables_rxController : (s.swapTables).rxController = s.rxController := rfl
@[simp] theorem State.swapTables_awaitingPresence : (s.swapTables).awaitingPresence = s.awaitingPresence := rfl
@[simp] theorem State.swapTables_awaitingRouting : (s.swapTables).awaitingRouting = s.awaitingRouting := rfl
@[simp] theorem State.swapTables_forwardFifo : (s.swapTables).forwardFifo = s.forwardFifo := rfl
@[simp] theorem State.swapTables_sensorQueue : (s.swapTables).sensorQueue = s.sensorQueue := rfl
@[simp] theorem State.swapTables_replies : (s.swapTables).replies = s.replies := rfl
@[simp] theorem State.swapTables_controllerTx : (s.swapTables).controllerTx = s.controllerTx := rfl
@[simp] theorem State.swapTables_sensorTx : (s.swapTables).sensorTx = s.sensorTx := rfl
@[simp] theorem State.swapTables_sequence : (s.swapTables).sequence = s.sequence := rfl
@[simp] theorem State.swapTables_counters : (s.swapTables).counters = s.counters := rfl
@[simp] theorem State.swapTables_rings : (s.swapTables).rings = s.rings := rfl
@[simp] theorem State.swapTables_slots : (s.swapTables).slots = s.slots := rfl
@[simp] theorem State.swapTables_missed : (s.swapTables).missed = s.missed := rfl
@[simp] theorem State.swapTables_proof : (s.swapTables).proof = s.proof := rfl
@[simp] theorem State.swapTables_pending : (s.swapTables).pending = s.pending := rfl

/-! ### originate -/

@[simp] theorem State.originate_now (k : Byte) (d : List Byte) : (s.originate k d).now = s.now := rfl
@[simp] theorem State.originate_strap (k : Byte) (d : List Byte) : (s.originate k d).strap = s.strap := rfl
@[simp] theorem State.originate_engine (k : Byte) (d : List Byte) : (s.originate k d).engine = s.engine := rfl
@[simp] theorem State.originate_active (k : Byte) (d : List Byte) : (s.originate k d).active = s.active := rfl
@[simp] theorem State.originate_staged (k : Byte) (d : List Byte) : (s.originate k d).staged = s.staged := rfl
@[simp] theorem State.originate_nodes (k : Byte) (d : List Byte) : (s.originate k d).nodes = s.nodes := rfl
@[simp] theorem State.originate_zones (k : Byte) (d : List Byte) : (s.originate k d).zones = s.zones := rfl
@[simp] theorem State.originate_feeders (k : Byte) (d : List Byte) : (s.originate k d).feeders = s.feeders := rfl
@[simp] theorem State.originate_verdicts (k : Byte) (d : List Byte) : (s.originate k d).verdicts = s.verdicts := rfl
@[simp] theorem State.originate_lines (k : Byte) (d : List Byte) : (s.originate k d).lines = s.lines := rfl
@[simp] theorem State.originate_presence (k : Byte) (d : List Byte) : (s.originate k d).presence = s.presence := rfl
@[simp] theorem State.originate_presenceDeadline (k : Byte) (d : List Byte) : (s.originate k d).presenceDeadline = s.presenceDeadline := rfl
@[simp] theorem State.originate_rxSensor (k : Byte) (d : List Byte) : (s.originate k d).rxSensor = s.rxSensor := rfl
@[simp] theorem State.originate_rxController (k : Byte) (d : List Byte) : (s.originate k d).rxController = s.rxController := rfl
@[simp] theorem State.originate_awaitingPresence (k : Byte) (d : List Byte) : (s.originate k d).awaitingPresence = s.awaitingPresence := rfl
@[simp] theorem State.originate_awaitingRouting (k : Byte) (d : List Byte) : (s.originate k d).awaitingRouting = s.awaitingRouting := rfl
@[simp] theorem State.originate_forwardFifo (k : Byte) (d : List Byte) : (s.originate k d).forwardFifo = s.forwardFifo := rfl
@[simp] theorem State.originate_sensorQueue (k : Byte) (d : List Byte) : (s.originate k d).sensorQueue = s.sensorQueue := rfl
@[simp] theorem State.originate_replies (k : Byte) (d : List Byte) : (s.originate k d).replies = s.replies := rfl
@[simp] theorem State.originate_sensorTx (k : Byte) (d : List Byte) : (s.originate k d).sensorTx = s.sensorTx := rfl
@[simp] theorem State.originate_counters (k : Byte) (d : List Byte) : (s.originate k d).counters = s.counters := rfl
@[simp] theorem State.originate_rings (k : Byte) (d : List Byte) : (s.originate k d).rings = s.rings := rfl
@[simp] theorem State.originate_slots (k : Byte) (d : List Byte) : (s.originate k d).slots = s.slots := rfl
@[simp] theorem State.originate_missed (k : Byte) (d : List Byte) : (s.originate k d).missed = s.missed := rfl
@[simp] theorem State.originate_proof (k : Byte) (d : List Byte) : (s.originate k d).proof = s.proof := rfl
@[simp] theorem State.originate_pending (k : Byte) (d : List Byte) : (s.originate k d).pending = s.pending := rfl

/-! ### sensorNext -/

@[simp] theorem State.sensorNext_now : (s.sensorNext).now = s.now := rfl
@[simp] theorem State.sensorNext_strap : (s.sensorNext).strap = s.strap := rfl
@[simp] theorem State.sensorNext_engine : (s.sensorNext).engine = s.engine := rfl
@[simp] theorem State.sensorNext_active : (s.sensorNext).active = s.active := rfl
@[simp] theorem State.sensorNext_staged : (s.sensorNext).staged = s.staged := rfl
@[simp] theorem State.sensorNext_nodes : (s.sensorNext).nodes = s.nodes := rfl
@[simp] theorem State.sensorNext_zones : (s.sensorNext).zones = s.zones := rfl
@[simp] theorem State.sensorNext_feeders : (s.sensorNext).feeders = s.feeders := rfl
@[simp] theorem State.sensorNext_verdicts : (s.sensorNext).verdicts = s.verdicts := rfl
@[simp] theorem State.sensorNext_lines : (s.sensorNext).lines = s.lines := rfl
@[simp] theorem State.sensorNext_presence : (s.sensorNext).presence = s.presence := rfl
@[simp] theorem State.sensorNext_presenceDeadline : (s.sensorNext).presenceDeadline = s.presenceDeadline := rfl
@[simp] theorem State.sensorNext_rxSensor : (s.sensorNext).rxSensor = s.rxSensor := rfl
@[simp] theorem State.sensorNext_rxController : (s.sensorNext).rxController = s.rxController := rfl
@[simp] theorem State.sensorNext_awaitingPresence : (s.sensorNext).awaitingPresence = s.awaitingPresence := rfl
@[simp] theorem State.sensorNext_awaitingRouting : (s.sensorNext).awaitingRouting = s.awaitingRouting := rfl
@[simp] theorem State.sensorNext_forwardFifo : (s.sensorNext).forwardFifo = s.forwardFifo := rfl
@[simp] theorem State.sensorNext_replies : (s.sensorNext).replies = s.replies := rfl
@[simp] theorem State.sensorNext_controllerTx : (s.sensorNext).controllerTx = s.controllerTx := rfl
@[simp] theorem State.sensorNext_sequence : (s.sensorNext).sequence = s.sequence := rfl
@[simp] theorem State.sensorNext_counters : (s.sensorNext).counters = s.counters := rfl
@[simp] theorem State.sensorNext_rings : (s.sensorNext).rings = s.rings := rfl
@[simp] theorem State.sensorNext_slots : (s.sensorNext).slots = s.slots := rfl
@[simp] theorem State.sensorNext_missed : (s.sensorNext).missed = s.missed := rfl
@[simp] theorem State.sensorNext_proof : (s.sensorNext).proof = s.proof := rfl
@[simp] theorem State.sensorNext_pending : (s.sensorNext).pending = s.pending := rfl

end Sys2Proof.Machine
end

