-- ==== Sys2Proof/Laws/Ops.lean ====
section
/-!
SUPPORT. The named operations over the state: reading a record after a write, receivers and counters, and everything the
taking of a command and a held completion reply can do (R165, R166, R179).
-/

namespace Sys2Proof.Machine

/-! ## Records -/

theorem State.node?_setNode_same (s : State) (i : Nat) (n : NodeRun) (h : i < s.nodes.length) :
    (s.setNode i n).node? i = some n := by
  simp [State.node?, State.setNode, List.getElem?_set_self h]

theorem State.node?_setNode_other (s : State) {i j : Nat} (n : NodeRun) (h : j ≠ i) :
    (s.setNode i n).node? j = s.node? j := by
  simp [State.node?, State.setNode, List.getElem?_set_ne (Ne.symm h)]

theorem State.lt_of_node? {s : State} {i : Nat} {n : NodeRun} (h : s.node? i = some n) : i < s.nodes.length := by
  by_contra hn
  simp [State.node?, List.getElem?_eq_none (Nat.le_of_not_lt hn)] at h

/-- Reading a node after a replacement at an existing record. -/
theorem State.node?_setNode {s : State} {i : Nat} {m : NodeRun} (h : s.node? i = some m) (n : NodeRun) (j : Nat) :
    (s.setNode i n).node? j = if j = i then some n else s.node? j := by
  by_cases hj : j = i
  · subst hj; simp [State.node?_setNode_same s j n (State.lt_of_node? h)]
  · simp [hj, State.node?_setNode_other s n hj]

theorem State.setNode_nodes_length (s : State) (i : Nat) (n : NodeRun) : (s.setNode i n).nodes.length = s.nodes.length := by
  simp [State.setNode]

theorem State.zone?_modZone_same (s : State) (z : Nat) (g : Zone → Zone) : (s.modZone z g).zone? z = (s.zone? z).map g := by
  simp [State.zone?, State.modZone]
  cases s.zones[z]? with
  | none => rfl
  | some x => cases x <;> rfl

theorem State.zone?_modZone_other (s : State) {z y : Nat} (g : Zone → Zone) (h : y ≠ z) :
    (s.modZone z g).zone? y = s.zone? y := by
  simp [State.zone?, State.modZone, Ne.symm h]

/-- Reading a zone after a change of one zone. -/
theorem State.zone?_modZone (s : State) (z y : Nat) (g : Zone → Zone) :
    (s.modZone z g).zone? y = if y = z then (s.zone? y).map g else s.zone? y := by
  by_cases h : y = z
  · subst h; simp [State.zone?_modZone_same]
  · simp [h, State.zone?_modZone_other s g h]

theorem State.modZone_zones_length (s : State) (z : Nat) (g : Zone → Zone) :
    (s.modZone z g).zones.length = s.zones.length := by
  simp [State.modZone]

theorem State.zone?_modRun (s : State) (z y : Nat) (g : ZoneRecord → ZoneRecord) :
    (s.modRun z g).zone? y = if y = z then (s.zone? y).map fun x => { x with run := g x.run } else s.zone? y :=
  s.zone?_modZone z y _

theorem State.lt_of_zone? {s : State} {z : Nat} {x : Zone} (h : s.zone? z = some x) : z < s.zones.length := by
  by_contra hn
  simp [State.zone?, List.getElem?_eq_none (Nat.le_of_not_lt hn)] at h

@[simp] theorem State.isLive_setNode_other (s : State) {i j : Nat} (n : NodeRun) (h : j ≠ i) :
    (s.setNode i n).isLive j = s.isLive j := by
  simp [State.isLive, State.node?_setNode_other s n h]

/-! ## Receivers and counters -/

@[simp] theorem State.rx_setRx_same (s : State) (p : Port) (r : Receiver) : (s.setRx p r).rx p = r := by cases p <;> rfl

theorem State.rx_setRx_other (s : State) {p q : Port} (r : Receiver) (h : q ≠ p) : (s.setRx p r).rx q = s.rx q := by
  cases p <;> cases q <;> first | rfl | exact absurd rfl h

@[simp] theorem State.rx_modPort (s : State) (p q : Port) (g : PortCounters → PortCounters) :
    (s.modPort p g).rx q = s.rx q := by cases q <;> rfl

theorem gain_le (n : Nat) : gain n ≤ 4294967295 := Nat.min_le_left _ _

theorem le_gain {n : Nat} (h : n ≤ 4294967295) : n ≤ gain n := by simp [gain, satAdd]; omega

/-! ## The reply queue and the held reply -/

theorem State.flushHeld_of_not_waiting {s : State} (h : s.proof.state ≠ .completionWaiting) : s.flushHeld = s := by
  simp [State.flushHeld, State.canFlush, h]

theorem State.flushHeld_of_full {s : State} (h : Config.replyCapacity ≤ s.replies.length) : s.flushHeld = s := by
  simp [State.flushHeld, State.canFlush, Nat.not_lt.mpr h]

theorem State.flushHeld_of_room {s : State} (h : s.proof.state = .completionWaiting)
    (room : s.replies.length < Config.replyCapacity) :
    s.flushHeld = { s with replies := s.replies ++ s.proof.held.toList, proof := .idle } := by
  simp [State.flushHeld, State.canFlush, h, room]

/-- Everything flushHeld can do: nothing, or the held reply joins the queue and the proof ends. -/
theorem State.flushHeld_cases (s : State) :
    s.flushHeld = s ∨ (s.proof.state = .completionWaiting ∧ s.replies.length < Config.replyCapacity
      ∧ s.flushHeld = { s with replies := s.replies ++ s.proof.held.toList, proof := .idle }) := by
  by_cases h : s.proof.state = .completionWaiting
  · by_cases room : s.replies.length < Config.replyCapacity
    · exact .inr ⟨h, room, State.flushHeld_of_room h room⟩
    · exact .inl (State.flushHeld_of_full (Nat.le_of_not_lt room))
  · exact .inl (State.flushHeld_of_not_waiting h)

/-- A command that finds the reply queue full is discarded and counted (R165). -/
theorem State.takeCommand_of_full {s : State} (h : Config.replyCapacity ≤ s.replies.length) (code tag : Byte)
    (body : State → Answer) :
    s.takeCommand code tag body = s.modCounters fun c => { c with discards := gain c.discards } := by
  simp [State.takeCommand, Nat.not_lt.mpr h]

/-- A command that finds room is executed, and its REPLY appended; a completion made by the event follows (R165, R179). -/
theorem State.takeCommand_of_room {s : State} (h : s.replies.length < Config.replyCapacity) (code tag : Byte)
    (body : State → Answer) :
    s.takeCommand code tag body
      = State.flushHeld { (body s).state with
          replies := (body s).state.replies ++ ⟨code, tag, (body s).status, (body s).data⟩ :: (body s).more } := by
  simp [State.takeCommand, h]

/-- A command whose effect leaves no completion waiting only adds its REPLY to its effect (R165). -/
theorem State.takeCommand_of_answer {s t : State} {code tag : Byte} {body : State → Answer} {status : Status}
    {data : List Byte} (h : s.replies.length < Config.replyCapacity) (hb : body s = ⟨t, status, data, []⟩)
    (hp : t.proof.state ≠ .completionWaiting) :
    s.takeCommand code tag body = t.answer code tag status data := by
  rw [State.takeCommand_of_room h, hb]
  exact State.flushHeld_of_not_waiting hp

/-- A refused command adds its REPLY and nothing else (R166). -/
theorem State.takeCommand_of_refusal {s : State} {code tag : Byte} {body : State → Answer} {status : Status}
    (h : s.CanTake) (hb : body s = refuse s status) : s.takeCommand code tag body = s.answer code tag status [] :=
  State.takeCommand_of_answer h.1 hb h.2

/-! ## Checks shared by commands -/

theorem whenRunning_of_running {s : State} (h : s.engine = .running) (k : Answer) : whenRunning s k = k := by
  simp [whenRunning, h]

theorem whenRunning_of_unconfigured {s : State} (h : s.engine = .unconfigured) (k : Answer) :
    whenRunning s k = refuse s .notConfigured := by
  simp [whenRunning, h]

@[simp] theorem noParams_nil (s : State) (k : Answer) : noParams s [] k = k := rfl

theorem noParams_of_ne {s : State} {params : List Byte} (h : params ≠ []) (k : Answer) :
    noParams s params k = refuse s .badParam := by
  simp [noParams, h]

/-- A command on a node of a running engine whose index names a record (R166). -/
theorem onNode_of_some {s : State} {i : Byte} {r : NodeRec} {n : NodeRun} (k : Nat → NodeRec → NodeRun → Answer)
    (h : s.engine = .running) (hi : i.toNat < Config.nodeCount) (hr : s.active.node? i.toNat = some r)
    (hn : s.node? i.toNat = some n) : onNode s [i] k = k i.toNat r n := by
  simp [onNode, whenRunning_of_running h, hi, hr, hn]

/-- A command on a zone of a running engine whose index names a HEAD or NODE (R166). -/
theorem onZone_of_some {s : State} {i : Byte} {r : NodeRec} {x : Zone} (k : Nat → NodeRec → Zone → Answer)
    (h : s.engine = .running) (hi : i.toNat < Config.nodeCount) (hr : s.active.position? i.toNat = some r)
    (hx : s.zone? i.toNat = some x) : onZone s [i] k = k i.toNat r x := by
  simp [onZone, whenRunning_of_running h, hi, State.zoneAt, hr, hx]

theorem State.zoneAt_of_some {s : State} {z : Nat} {r : NodeRec} {x : Zone} (hr : s.active.position? z = some r)
    (hx : s.zone? z = some x) : s.zoneAt z = some (r, x) := by
  simp [State.zoneAt, hr, hx]

theorem Tables.node?_of_position? {t : Tables} {i : Nat} {r : NodeRec} (h : t.position? i = some r) :
    t.node? i = some r := (Option.filter_eq_some_iff.mp h).1

theorem State.feederOf_of_position? {s : State} {z : Nat} {r : NodeRec} (h : s.active.position? z = some r) :
    s.feederOf z = r.feeder := by
  simp [State.feederOf, Tables.node?_of_position? h]

end Sys2Proof.Machine
end

