-- ==== Sys2Proof/Laws/Capture.lean ====
section
/-!
SUPPORT. The capture unit: which slot a trigger finds, what a trigger and a record can do (R143 to R145), and that both
keep frozen slots and the whole unit.
-/

namespace Sys2Proof.Machine

@[simp] theorem lastN_length {α : Type} (n : Nat) (xs : List α) : (lastN n xs).length = min n xs.length := by
  simp only [lastN, List.length_drop]; omega

theorem lastN_of_le {α : Type} {n : Nat} {xs : List α} (h : xs.length ≤ n) : lastN n xs = xs := by
  simp [lastN, Nat.sub_eq_zero_of_le h]

theorem lastN_suffix {α : Type} (n : Nat) (xs : List α) : ∃ older, xs = older ++ lastN n xs :=
  ⟨xs.take (xs.length - n), (List.take_append_drop _ _).symm⟩

/-- The slot found FILLING for a feeder is one. -/
theorem State.fillingSlot_some {s : State} {f i : Fin 4} (h : s.fillingSlot f = some i) :
    (s.slots.get i).state = .filling ∧ (s.slots.get i).feeder = some f := by
  simpa using (four_find?_some h).1

theorem State.fillingSlot_none {s : State} {f : Fin 4} (h : s.fillingSlot f = none) (i : Fin 4)
    (hi : (s.slots.get i).state = .filling) : (s.slots.get i).feeder ≠ some f := by
  have := four_find?_none.mp h i
  simpa [hi] using this

/-- The slot found FREE is the lowest one. -/
theorem State.freeSlot_some {s : State} {i : Fin 4} (h : s.freeSlot = some i) :
    (s.slots.get i).state = .free ∧ ∀ j, j < i → (s.slots.get j).state ≠ .free := by
  have := four_find?_some h
  simpa using this

theorem State.freeSlot_none {s : State} (h : s.freeSlot = none) (i : Fin 4) : (s.slots.get i).state ≠ .free := by
  simpa using four_find?_none.mp h i

/-- Everything a trigger can do (R143): count in a FILLING slot of its feeder, take the lowest FREE slot, or be missed. -/
theorem State.captureTrigger_cases (s : State) (f : Fin 4) (kind : TriggerKind) (subject : Option Nat) :
    (∃ i, (s.slots.get i).state = .filling ∧ (s.slots.get i).feeder = some f
      ∧ s.captureTrigger f kind subject = { s with slots := s.slots.set i (s.slots.get i).countFurther })
    ∨ ((∀ j, (s.slots.get j).state = .filling → (s.slots.get j).feeder ≠ some f)
      ∧ ((∃ i, (s.slots.get i).state = .free ∧ (∀ j, j < i → (s.slots.get j).state ≠ .free)
          ∧ s.captureTrigger f kind subject = { s with slots := s.slots.set i (s.newSlot f kind subject) })
        ∨ ((∀ j, (s.slots.get j).state ≠ .free)
          ∧ s.captureTrigger f kind subject = { s with missed := satAdd 65535 s.missed 1 }))) := by
  cases hf : s.fillingSlot f with
  | some i =>
    have := State.fillingSlot_some hf
    exact .inl ⟨i, this.1, this.2, by simp [State.captureTrigger, hf]⟩
  | none =>
    refine .inr ⟨State.fillingSlot_none hf, ?_⟩
    cases hr : s.freeSlot with
    | some i =>
      have := State.freeSlot_some hr
      exact .inl ⟨i, this.1, this.2, by simp [State.captureTrigger, hf, hr]⟩
    | none => exact .inr ⟨State.freeSlot_none hr, by simp [State.captureTrigger, hf, hr]⟩

/-- Everything a record can do to the slots (R145): join the FILLING slot of its feeder, or nothing. -/
theorem State.pushRecord_slots_cases (s : State) (f : Fin 4) (r : CaptureRecord) :
    (s.pushRecord f r).slots = s.slots
    ∨ ∃ i, (s.slots.get i).state = .filling ∧ (s.slots.get i).feeder = some f
      ∧ (s.pushRecord f r).slots = s.slots.set i ((s.slots.get i).append r) := by
  simp only [State.pushRecord]
  split
  · cases hf : s.fillingSlot f with
    | some i =>
      have := State.fillingSlot_some hf
      exact .inr ⟨i, this.1, this.2, rfl⟩
    | none => exact .inl rfl
  · exact .inl rfl

/-- A record keeps every ring within its 128 places (R140). -/
theorem State.pushRecord_rings_le {s : State} (h : ∀ g, (s.rings.get g).length ≤ Config.ringCapacity) (f : Fin 4)
    (r : CaptureRecord) (g : Fin 4) : ((s.pushRecord f r).rings.get g).length ≤ Config.ringCapacity := by
  simp only [State.pushRecord]
  split
  · simp only [Four.get_set]
    split
    · simp only [lastN_length]; exact Nat.min_le_left _ _
    · exact h g
  · exact h g

/-- A trigger changes the slots and the missed-trigger count alone. -/
theorem State.captureTrigger_frame (s : State) (f : Fin 4) (kind : TriggerKind) (subject : Option Nat) :
    s.captureTrigger f kind subject
      = { s with
          slots := (s.captureTrigger f kind subject).slots
          missed := (s.captureTrigger f kind subject).missed } := by
  rcases s.captureTrigger_cases f kind subject with ⟨i, -, -, h⟩ | ⟨-, ⟨i, -, -, h⟩ | ⟨-, h⟩⟩ <;> rw [h]

theorem State.raiseTrigger_frame (s : State) (f : Fin 4) (kind : TriggerKind) (subject : Option Nat) :
    s.raiseTrigger f kind subject
      = { s with
          slots := (s.raiseTrigger f kind subject).slots
          missed := (s.raiseTrigger f kind subject).missed } := by
  simp only [State.raiseTrigger]
  split
  · exact s.captureTrigger_frame f kind subject
  · rfl

/-- A trigger keeps every FROZEN slot (R145). -/
theorem State.captureTrigger_frozen {s : State} {k : Fin 4} (h : (s.slots.get k).state = .frozen) (f : Fin 4)
    (kind : TriggerKind) (subject : Option Nat) : (s.captureTrigger f kind subject).slots.get k = s.slots.get k := by
  rcases s.captureTrigger_cases f kind subject with ⟨i, hi, -, he⟩ | ⟨-, ⟨i, hi, -, he⟩ | ⟨-, he⟩⟩ <;> rw [he]
  · exact Four.get_set_other _ _ fun hk => by rw [hk, hi] at h; cases h
  · exact Four.get_set_other _ _ fun hk => by rw [hk, hi] at h; cases h

theorem State.raiseTrigger_frozen {s : State} {k : Fin 4} (h : (s.slots.get k).state = .frozen) (f : Fin 4)
    (kind : TriggerKind) (subject : Option Nat) : (s.raiseTrigger f kind subject).slots.get k = s.slots.get k := by
  simp only [State.raiseTrigger]
  split
  · exact State.captureTrigger_frozen h f kind subject
  · rfl

/-- A record keeps every FROZEN slot (R145). -/
theorem State.pushRecord_frozen {s : State} {k : Fin 4} (h : (s.slots.get k).state = .frozen) (f : Fin 4)
    (r : CaptureRecord) : (s.pushRecord f r).slots.get k = s.slots.get k := by
  rcases s.pushRecord_slots_cases f r with he | ⟨i, hi, -, he⟩ <;> rw [he]
  exact Four.get_set_other _ _ fun hk => by rw [hk, hi] at h; cases h

/-! ## Whole slots -/

theorem Slot.empty_whole : Slot.empty.Whole := by
  constructor <;> simp [Slot.empty]

theorem Slot.countFurther_whole {x : Slot} (h : x.Whole) (hf : x.state = .filling) : x.countFurther.Whole := by
  constructor <;> simp [Slot.countFurther, hf, satAdd]
  · exact ⟨(h.taken (by simp [hf])).1, (h.taken (by simp [hf])).2⟩
  · exact h.parts
  · exact h.filling hf

theorem Slot.append_whole {x : Slot} (h : x.Whole) (hf : x.state = .filling) (r : CaptureRecord) : (x.append r).Whole := by
  have h1 := h.taken (by simp [hf])
  have h2 := h.filling hf
  have h3 := h.parts
  have h4 := h.further
  constructor <;> simp only [Slot.append]
  · intro hs; split at hs
    · cases hs
    · rw [hf] at hs; cases hs
  · intro _; exact h1
  · simp; omega
  · intro hs; split at hs
    · cases hs
    · simp; omega
  · intro hs; split at hs
    · simp; omega
    · rw [hf] at hs; cases hs
  · exact h4

theorem State.newSlot_whole {s : State} (h : s.active.header.inRange) (f : Fin 4) (kind : TriggerKind)
    (subject : Option Nat) : (s.newSlot f kind subject).Whole := by
  simp only [Header.inRange, within, Bool.and_eq_true, decide_eq_true_eq] at h
  constructor <;> simp [State.newSlot] <;> omega

/-- A trigger keeps the capture unit whole. -/
theorem State.captureTrigger_whole {s : State} (h : s.CaptureWhole) (f : Fin 4) (kind : TriggerKind)
    (subject : Option Nat) : (s.captureTrigger f kind subject).CaptureWhole := by
  rcases s.captureTrigger_cases f kind subject with ⟨i, hi, hfi, he⟩ | ⟨hno, ⟨i, hi, -, he⟩ | ⟨-, he⟩⟩ <;> rw [he]
  · refine ⟨h.rings, fun j => ?_, fun j k hj hk hf => ?_, h.missed, h.activeHeader, h.stagedHeader⟩
    · simp only [Four.get_set]
      split
      · exact Slot.countFurther_whole (h.slots i) hi
      · exact h.slots j
    · have g : ∀ j, ((s.slots.set i (s.slots.get i).countFurther).get j).state = (s.slots.get j).state
          ∧ ((s.slots.set i (s.slots.get i).countFurther).get j).feeder = (s.slots.get j).feeder := by
        intro j; simp only [Four.get_set]; split
        · rename_i hji; subst hji; exact ⟨rfl, rfl⟩
        · exact ⟨rfl, rfl⟩
      simp only [(g _).1, (g _).2] at hj hk hf
      exact h.oneFilling j k hj hk hf
  · refine ⟨h.rings, fun j => ?_, fun j k hj hk hf => ?_, h.missed, h.activeHeader, h.stagedHeader⟩
    · simp only [Four.get_set]
      split
      · exact State.newSlot_whole h.activeHeader f kind subject
      · exact h.slots j
    · simp only [Four.get_set] at hj hk hf
      have hn : (s.newSlot f kind subject).feeder = some f := rfl
      by_cases h1 : j = i <;> by_cases h2 : k = i <;> simp only [h1, h2, if_true, if_false, hn] at hj hk hf ⊢
      · exact absurd hf.symm (hno k hk)
      · exact absurd hf (hno j hj)
      · exact h.oneFilling j k hj hk hf
  · exact ⟨h.rings, h.slots, h.oneFilling, Nat.min_le_left _ _, h.activeHeader, h.stagedHeader⟩

theorem State.raiseTrigger_whole {s : State} (h : s.CaptureWhole) (f : Fin 4) (kind : TriggerKind)
    (subject : Option Nat) : (s.raiseTrigger f kind subject).CaptureWhole := by
  simp only [State.raiseTrigger]
  split
  · exact State.captureTrigger_whole h f kind subject
  · exact h

@[simp] theorem State.pushRecord_missed (s : State) (f : Fin 4) (r : CaptureRecord) :
    (s.pushRecord f r).missed = s.missed := by
  simp only [State.pushRecord]; split <;> rfl

/-- A record keeps the capture unit whole. -/
theorem State.pushRecord_whole {s : State} (h : s.CaptureWhole) (f : Fin 4) (r : CaptureRecord) :
    (s.pushRecord f r).CaptureWhole := by
  have ha : (s.pushRecord f r).active = s.active ∧ (s.pushRecord f r).staged = s.staged := by
    simp only [State.pushRecord]; split <;> exact ⟨rfl, rfl⟩
  refine ⟨State.pushRecord_rings_le h.rings f r, ?_, ?_, by simpa using h.missed, ha.1 ▸ h.activeHeader,
    ha.2 ▸ h.stagedHeader⟩
  · intro j
    rcases s.pushRecord_slots_cases f r with he | ⟨i, hi, -, he⟩ <;> rw [he]
    · exact h.slots j
    · simp only [Four.get_set]
      split
      · exact Slot.append_whole (h.slots i) hi r
      · exact h.slots j
  · intro j k
    rcases s.pushRecord_slots_cases f r with he | ⟨i, hi, -, he⟩ <;> rw [he]
    · exact h.oneFilling j k
    · have g : ∀ j, ((s.slots.set i ((s.slots.get i).append r)).get j).state = .filling → (s.slots.get j).state = .filling := by
        intro j; simp only [Four.get_set]; split
        · rename_i hji; subst hji; exact fun _ => hi
        · exact id
      have g' : ∀ j, ((s.slots.set i ((s.slots.get i).append r)).get j).feeder = (s.slots.get j).feeder := by
        intro j; simp only [Four.get_set]; split
        · rename_i hji; subst hji; rfl
        · rfl
      intro hj hk hf
      rw [g', g'] at hf
      exact h.oneFilling j k (g j hj) (g k hk) hf

end Sys2Proof.Machine
end

