-- ==== Sys2Proof/Laws/Verdicts.lean ====
section
/-!
SUPPORT. Verdict output: what a raise does to the queue (R107), and what a recomputation of the lines leaves (R112 to R117).
-/

namespace Sys2Proof.Machine

/-! ## The verdict queue -/

theorem raiseInto_of_absent {e : VerdictEntry} {qs : List VerdictEntry} (h : ∀ q ∈ qs, q.zone ≠ e.zone) :
    raiseInto e qs = qs ++ [e] := by
  induction qs with
  | nil => rfl
  | cons q qs ih => simp [raiseInto, h q (by simp), ih fun x hx => h x (by simp [hx])]

theorem raiseInto_of_present {e q : VerdictEntry} {before rest : List VerdictEntry} (hq : q.zone = e.zone)
    (h : ∀ x ∈ before, x.zone ≠ e.zone) :
    raiseInto e (before ++ q :: rest) = before ++ { e with history := q.history ||| e.history } :: rest := by
  induction before with
  | nil => simp [raiseInto, hq]
  | cons b bs ih => simp [raiseInto, h b (by simp), ih fun x hx => h x (by simp [hx])]

/-- A raise leaves the zones of the queue as they were, with the raised zone added at the tail where it was absent. -/
theorem raiseInto_zones (e : VerdictEntry) (qs : List VerdictEntry) :
    (raiseInto e qs).map (·.zone)
      = if e.zone ∈ qs.map (·.zone) then qs.map (·.zone) else qs.map (·.zone) ++ [e.zone] := by
  induction qs with
  | nil => simp [raiseInto]
  | cons q qs ih =>
    by_cases h : q.zone = e.zone
    · simp [raiseInto, h]
    · have h' : e.zone ≠ q.zone := fun x => h x.symm
      simp only [raiseInto, h, if_false, List.map_cons, ih, List.mem_cons, h', false_or]
      split <;> rfl

/-- A raise keeps one entry for a zone (R106). -/
theorem raiseInto_nodup {e : VerdictEntry} {qs : List VerdictEntry} (h : (qs.map (·.zone)).Nodup) :
    ((raiseInto e qs).map (·.zone)).Nodup := by
  rw [raiseInto_zones]
  split
  · exact h
  · rename_i hm
    exact List.nodup_append.mpr ⟨h, by simp, by
      intro a ha b hb
      simp at hb
      subst hb
      exact fun hab => hm (hab ▸ ha)⟩

/-- A raise leaves the raised zone's entry with the fields raised, and its history only grows. -/
theorem mem_raiseInto_self (e : VerdictEntry) (qs : List VerdictEntry) :
    ∃ v ∈ raiseInto e qs, ∃ old : BitVec 8, v = { e with history := old ||| e.history } := by
  induction qs with
  | nil => exact ⟨e, by simp [raiseInto], 0#8, by simp⟩
  | cons q qs ih =>
    by_cases h : q.zone = e.zone
    · exact ⟨_, by simp only [raiseInto, h, if_true]; exact List.mem_cons_self, q.history, rfl⟩
    · obtain ⟨v, hv, old, rfl⟩ := ih
      exact ⟨_, by simp only [raiseInto, h, if_false]; exact List.mem_cons_of_mem _ hv, old, rfl⟩

/-- A raise leaves the entries of other zones as they are. -/
theorem mem_raiseInto_other {e v : VerdictEntry} {qs : List VerdictEntry} (h : v.zone ≠ e.zone) :
    v ∈ raiseInto e qs ↔ v ∈ qs := by
  induction qs with
  | nil =>
    simp only [raiseInto, List.mem_singleton, List.not_mem_nil, iff_false]
    exact fun hv => h (by rw [hv])
  | cons q qs ih =>
    by_cases hq : q.zone = e.zone
    · have h1 : ∀ b : BitVec 8, v ≠ { e with history := b } := fun b hv => h (by rw [hv])
      have h2 : v ≠ q := fun hv => h (by rw [hv, hq])
      simp only [raiseInto, hq, if_true, List.mem_cons, h1, h2, false_or]
    · simp only [raiseInto, hq, if_false, List.mem_cons, ih]

/-- A raise for a zone with its records (R107, R108). -/
theorem State.raise_of_some {s : State} {z : Nat} {r : NodeRec} {x : Zone} (kind : VerdictKind)
    (hr : s.active.position? z = some r) (hx : s.zone? z = some x) :
    s.raise z kind = { s with verdicts := raiseInto (verdictEntry s.now z r x kind) s.verdicts } := by
  simp [State.raise, State.zoneAt_of_some hr hx]

@[simp] theorem State.zone?_raise (s : State) (z y : Nat) (kind : VerdictKind) : (s.raise z kind).zone? y = s.zone? y := rfl

@[simp] theorem State.node?_raise (s : State) (z i : Nat) (kind : VerdictKind) : (s.raise z kind).node? i = s.node? i := rfl

/-! ## The lines -/

/-- A line is demanded by a zone in TRIPPED or LOCKOUT that names it (R113). -/
theorem State.demanded_iff (s : State) (l : Fin 4) :
    s.demanded l = true ↔ ∃ z r x, s.active.position? z = some r ∧ s.zone? z = some x ∧ x.isTripped = true
      ∧ r.namesLine l = true := by
  simp only [State.demanded, List.any_eq_true, List.mem_range, Option.any_eq_true, Bool.and_eq_true, State.zoneAt,
    Option.bind_eq_some_iff, Option.map_eq_some_iff]
  constructor
  · rintro ⟨z, -, ⟨r, x⟩, ⟨r', hr, x', hx, he⟩, ht, hn⟩
    cases he
    exact ⟨z, r, x, hr, hx, ht, hn⟩
  · rintro ⟨z, r, x, hr, hx, ht, hn⟩
    exact ⟨z, State.lt_of_zone? hx, (r, x), ⟨r, hr, x, hx, rfl⟩, ht, hn⟩

/-- The demand depends on the tables, and on which zones stand in TRIPPED or LOCKOUT. -/
theorem State.demanded_congr {s t : State} (ha : t.active = s.active)
    (hz : ∀ z, (t.zone? z).any Zone.isTripped = (s.zone? z).any Zone.isTripped) (l : Fin 4) :
    t.demanded l = s.demanded l := by
  have key : ∀ (u v : State), v.active = u.active →
      (∀ z, (v.zone? z).any Zone.isTripped = (u.zone? z).any Zone.isTripped) → u.demanded l = true → v.demanded l = true := by
    intro u v hva hvz h
    rw [State.demanded_iff] at h ⊢
    obtain ⟨z, r, x, hr, hx, ht, hn⟩ := h
    have h1 := hvz z
    rw [hx] at h1
    simp only [Option.any_some, ht, Option.any_eq_true] at h1
    obtain ⟨y, hy, hyt⟩ := h1
    exact ⟨z, r, y, by rw [hva]; exact hr, hy, hyt, hn⟩
  exact Bool.eq_iff_iff.mpr ⟨key t s ha.symm fun z => (hz z).symm, key s t ha hz⟩

/-- The policy condition depends on the tables, presence, and which zones stand in TRIPPED or LOCKOUT (R112). -/
theorem State.policyCondition_congr {s t : State} (ha : t.active = s.active) (hp : t.presence = s.presence)
    (hz : ∀ z, (t.zone? z).any Zone.isTripped = (s.zone? z).any Zone.isTripped) (l : Fin 4) :
    t.policyCondition l = s.policyCondition l := by
  simp only [State.policyCondition, ha, hp, State.demanded_congr ha hz l]

/-- A recomputation leaves the lines following (R114, R115). -/
theorem State.recomputeLines_linesFollow (s : State) : s.recomputeLines.LinesFollow := by
  intro l
  simp [State.recomputeLines, State.policyCondition, State.demanded, State.pulseOn, State.zoneAt, State.zone?]

/-- What the lines follow does not change where neither policy, presence, trips nor pulse do. -/
theorem State.LinesFollow.congr {s t : State} (h : s.LinesFollow) (hl : t.lines = s.lines) (ha : t.active = s.active)
    (hp : t.presence = s.presence) (hz : ∀ z, (t.zone? z).any Zone.isTripped = (s.zone? z).any Zone.isTripped)
    (hon : ∀ l, t.pulseOn l = s.pulseOn l) : t.LinesFollow := by
  intro l
  rw [hl, h l, State.policyCondition_congr ha hp hz, hon]

/-- A recomputation changes the lines and, in the proof record, the taken-over mark alone. -/
theorem State.recomputeLines_eq (s : State) :
    s.recomputeLines = { s with
      lines := s.recomputeLines.lines
      proof := { s.proof with takenOver := s.recomputeLines.proof.takenOver } } := rfl

theorem State.recomputeLines_takenOver_of_no_pulse {s : State} (h : s.proof.state ≠ .pulseRunning) :
    s.recomputeLines.proof = s.proof := by
  simp [State.recomputeLines, State.pulseOn, h, four]

end Sys2Proof.Machine
end

