-- ==== Sys2Proof/Laws/Zones.lean ====
section
/-!
SUPPORT. The zone state machine and the topology resolver: what each of their events leaves alone, and that no hand-off and no
recomputation makes or ends a trip (R12 to R15, R91, R96 to R99); what the first step of a feeder expiry does (R61).
-/

namespace Sys2Proof.Machine

/-! ## Frames -/

theorem State.OutsideZones.refl (s : State) : s.OutsideZones s := by constructor <;> rfl

theorem State.OutsideZones.trans {s t u : State} (h : s.OutsideZones t) (k : t.OutsideZones u) : s.OutsideZones u := by
  constructor
  · exact k.now.trans h.now
  · exact k.strap.trans h.strap
  · exact k.engine.trans h.engine
  · exact k.active.trans h.active
  · exact k.staged.trans h.staged
  · exact k.nodes.trans h.nodes
  · exact k.feeders.trans h.feeders
  · exact k.presence.trans h.presence
  · exact k.presenceDeadline.trans h.presenceDeadline
  · exact k.rxSensor.trans h.rxSensor
  · exact k.rxController.trans h.rxController
  · exact k.awaitingPresence.trans h.awaitingPresence
  · exact k.awaitingRouting.trans h.awaitingRouting
  · exact k.forwardFifo.trans h.forwardFifo
  · exact k.sensorQueue.trans h.sensorQueue
  · exact k.replies.trans h.replies
  · exact k.controllerTx.trans h.controllerTx
  · exact k.sensorTx.trans h.sensorTx
  · exact k.sequence.trans h.sequence
  · exact k.counters.trans h.counters
  · exact k.rings.trans h.rings
  · exact k.pending.trans h.pending

/-- A fold of steps that each leave everything outside the zones leaves it. -/
theorem State.OutsideZones.foldl {α : Type} {g : State → α → State} (h : ∀ (s : State) (a : α), s.OutsideZones (g s a)) (s : State)
    (xs : List α) : s.OutsideZones (xs.foldl g s) := by
  induction xs generalizing s with
  | nil => exact .refl s
  | cons a xs ih => exact (h s a).trans (ih (g s a))

theorem State.modZone_outside (s : State) (z : Nat) (g : Zone → Zone) : s.OutsideZones (s.modZone z g) := by
  constructor <;> rfl

theorem State.modRun_outside (s : State) (z : Nat) (g : ZoneRecord → ZoneRecord) : s.OutsideZones (s.modRun z g) :=
  s.modZone_outside z _

theorem State.raise_outside (s : State) (z : Nat) (kind : VerdictKind) : s.OutsideZones (s.raise z kind) := by
  constructor <;> rfl

theorem State.recomputeLines_outside (s : State) : s.OutsideZones s.recomputeLines := by constructor <;> rfl

theorem State.completeProof_outside (s : State) (status : Status) (data : List Byte) :
    s.OutsideZones (s.completeProof status data) := by
  constructor <;> rfl

theorem State.abandonProof_outside (s : State) (z : Nat) : s.OutsideZones (s.abandonProof z) := by
  simp only [State.abandonProof]; split
  · exact s.completeProof_outside _ _
  · exact .refl s

theorem State.raiseTrigger_outside (s : State) (f : Fin 4) (kind : TriggerKind) (subject : Option Nat) :
    s.OutsideZones (s.raiseTrigger f kind subject) := by
  rw [s.raiseTrigger_frame]; constructor <;> rfl

theorem State.enterSuspect_outside (s : State) (z : Nat) : s.OutsideZones (s.enterSuspect z) :=
  (s.modRun_outside z _).trans (State.raiseTrigger_outside _ _ _ _)

theorem State.enterAbsorbed_outside (s : State) (z : Nat) : s.OutsideZones (s.enterAbsorbed z) :=
  ((s.modZone_outside z _).trans (State.abandonProof_outside _ z)).trans (State.raise_outside _ z _)

theorem State.enterDegraded_outside (s : State) (z : Nat) (reason : Reason) : s.OutsideZones (s.enterDegraded z reason) :=
  ((s.modRun_outside z _).trans (State.abandonProof_outside _ z)).trans (State.raise_outside _ z _)

theorem State.changeDegraded_outside (s : State) (z : Nat) (reason : Reason) : s.OutsideZones (s.changeDegraded z reason) :=
  (s.modRun_outside z _).trans (State.raise_outside _ z _)

theorem State.restoreAbsorbed_outside (s : State) (z : Nat) : s.OutsideZones (s.restoreAbsorbed z) :=
  (s.modZone_outside z _).trans (State.raise_outside _ z _)

theorem State.restoreDegraded_outside (s : State) (z : Nat) : s.OutsideZones (s.restoreDegraded z) := by
  simp only [State.restoreDegraded]; split
  · exact ((s.modRun_outside z _).trans (State.enterSuspect_outside _ z)).trans (State.raise_outside _ z _)
  · exact ((s.modRun_outside z _).trans (State.modRun_outside _ z _)).trans (State.raise_outside _ z _)

theorem State.handOff_outside (s : State) (z : Nat) (new : Evaluability) : s.OutsideZones (s.handOff z new) := by
  simp only [State.handOff]
  split
  · exact .refl s
  · split <;> first
      | exact .refl s
      | exact s.restoreAbsorbed_outside z
      | exact s.enterDegraded_outside z _
      | exact s.enterAbsorbed_outside z
      | exact s.restoreDegraded_outside z
      | exact s.changeDegraded_outside z _

theorem State.replaceTopology_outside (s : State) (f : Fin 4) : s.OutsideZones (s.replaceTopology f) := by
  constructor <;> rfl

/-- A recomputation of a feeder changes nothing outside the zones (R12). -/
theorem State.recompute_outside (s : State) (f : Fin 4) : s.OutsideZones (s.recompute f) :=
  (s.replaceTopology_outside f).trans (State.OutsideZones.foldl (fun t (h : Nat × Evaluability) => t.handOff_outside h.1 h.2) _ _)

theorem State.recomputeAll_outside (s : State) : s.OutsideZones s.recomputeAll :=
  State.OutsideZones.foldl (fun t f => t.recompute_outside f) _ _

theorem State.noteLoss_outside (s : State) (z : Nat) : s.OutsideZones (s.noteLoss z) := s.modZone_outside z _

theorem State.lossNotices_outside (s : State) (f : Fin 4) (i : Nat) : s.OutsideZones (s.lossNotices f i) :=
  State.OutsideZones.foldl (fun t z => t.noteLoss_outside z) _ _

theorem State.confirm_outside (s : State) (z : Nat) : s.OutsideZones (s.confirm z) := by
  simp only [State.confirm]; split
  · exact .refl s
  · exact ((((s.modRun_outside z _).trans (State.raise_outside _ z _)).trans (State.abandonProof_outside _ z)).trans
      (State.recomputeLines_outside _)).trans (State.raiseTrigger_outside _ _ _ _)

theorem State.raiseWouldTrip_outside (s : State) (z : Nat) : s.OutsideZones (s.raiseWouldTrip z) := by
  simp only [State.raiseWouldTrip]; split
  · exact (s.modRun_outside z _).trans (State.raise_outside _ z _)
  · exact .refl s

theorem State.takeDecision_outside (s : State) (z : Nat) (d : Decision) : s.OutsideZones (s.takeDecision z d) := by
  cases d
  · exact .refl s
  · exact s.enterSuspect_outside z
  · exact (s.enterSuspect_outside z).trans (State.raiseWouldTrip_outside _ z)
  · exact s.raiseWouldTrip_outside z
  · exact s.confirm_outside z
  · exact s.modRun_outside z _

theorem State.evaluateZone_outside (s : State) (z : Nat) : s.OutsideZones (s.evaluateZone z) := by
  simp only [State.evaluateZone]
  split
  · exact .refl s
  · split
    · exact .refl s
    · split
      · exact (s.modZone_outside z _).trans (State.takeDecision_outside _ z _)
      · exact .refl s

theorem State.followTopology_outside (s : State) (z : Nat) : s.OutsideZones (s.followTopology z) := by
  simp only [State.followTopology]
  split
  · exact .refl s
  · split
    · exact .refl s
    · exact s.enterAbsorbed_outside z
    · exact s.enterDegraded_outside z _
    · exact s.enterDegraded_outside z _

theorem State.release_outside (s : State) (z trips : Nat) (memory : Option Time) :
    s.OutsideZones (s.release z trips memory) :=
  (((s.modZone_outside z _).trans (State.raise_outside _ z _)).trans (State.recomputeLines_outside _)).trans
    (State.followTopology_outside _ z)

theorem State.blindTrip_outside (s : State) (z : Nat) : s.OutsideZones (s.blindTrip z) :=
  ((s.modRun_outside z _).trans (State.raise_outside _ z _)).trans (State.recomputeLines_outside _)

/-! ## Zones an event does not name -/

/-- The events of one zone keep every other zone's records. -/
def State.KeepsOthers (s t : State) (z : Nat) : Prop := ∀ y, y ≠ z → t.zone? y = s.zone? y

theorem State.KeepsOthers.refl (s : State) (z : Nat) : s.KeepsOthers s z := fun _ _ => rfl

theorem State.KeepsOthers.trans {s t u : State} {z : Nat} (h : s.KeepsOthers t z) (k : t.KeepsOthers u z) :
    s.KeepsOthers u z := fun y hy => (k y hy).trans (h y hy)

theorem State.modZone_keeps (s : State) (z : Nat) (g : Zone → Zone) : s.KeepsOthers (s.modZone z g) z :=
  fun _ hy => s.zone?_modZone_other g hy

theorem State.KeepsOthers.of_zones {s t : State} (h : t.zones = s.zones) (z : Nat) : s.KeepsOthers t z :=
  fun y _ => by simp only [State.zone?, h]

theorem State.abandonProof_zones (s : State) (z : Nat) : (s.abandonProof z).zones = s.zones := by
  simp only [State.abandonProof]; split <;> rfl

theorem State.abandonProof_lines (s : State) (z : Nat) : (s.abandonProof z).lines = s.lines := by
  simp only [State.abandonProof]; split <;> rfl

theorem State.raiseTrigger_zones (s : State) (f : Fin 4) (kind : TriggerKind) (subject : Option Nat) :
    (s.raiseTrigger f kind subject).zones = s.zones := by rw [s.raiseTrigger_frame]

theorem State.raiseTrigger_lines (s : State) (f : Fin 4) (kind : TriggerKind) (subject : Option Nat) :
    (s.raiseTrigger f kind subject).lines = s.lines := by rw [s.raiseTrigger_frame]

theorem State.raiseTrigger_proof (s : State) (f : Fin 4) (kind : TriggerKind) (subject : Option Nat) :
    (s.raiseTrigger f kind subject).proof = s.proof := by rw [s.raiseTrigger_frame]

/-- Everything a hand-off can do to the zone's records (R91, R96, R97, R99), by the state before and after: it leaves the
zone, absorbs it, degrades it, gives it another degrade reason, or restores it. -/
theorem State.zone?_enterAbsorbed (s : State) (z y : Nat) :
    (s.enterAbsorbed z).zone? y = if y = z then
      (s.zone? y).map fun x => { x with run := x.run.toAbsorbed, eval := { x.eval with evidence := 0 } }
    else s.zone? y := by
  rw [← State.zone?_modZone]
  exact congrArg (fun zs : List (Option Zone) => (zs[y]?).join) (State.abandonProof_zones _ z)

theorem State.zone?_enterDegraded (s : State) (z y : Nat) (reason : Reason) :
    (s.enterDegraded z reason).zone? y = if y = z then
      (s.zone? y).map fun x => { x with run := x.run.toDegraded s.now (s.profile z) reason }
    else s.zone? y :=
  (congrArg (fun zs : List (Option Zone) => (zs[y]?).join) (State.abandonProof_zones _ z)).trans
    (s.zone?_modRun z y fun r => r.toDegraded s.now (s.profile z) reason)

theorem State.zone?_changeDegraded (s : State) (z y : Nat) (reason : Reason) :
    (s.changeDegraded z reason).zone? y = if y = z then
      (s.zone? y).map fun x => { x with run := { x.run with reason := some reason } }
    else s.zone? y := s.zone?_modRun z y fun r => { r with reason := some reason }

theorem State.zone?_restoreAbsorbed (s : State) (z y : Nat) :
    (s.restoreAbsorbed z).zone? y = if y = z then
      (s.zone? y).map fun x => { x with run := { x.run with state := .normal, reason := none }, eval := x.eval.markReseed }
    else s.zone? y := s.zone?_modZone z y _

theorem State.zone?_enterSuspect (s : State) (z y : Nat) :
    (s.enterSuspect z).zone? y = if y = z then
      (s.zone? y).map fun x => { x with run := x.run.toSuspect s.now (s.profile z) }
    else s.zone? y :=
  (congrArg (fun zs : List (Option Zone) => (zs[y]?).join) (State.raiseTrigger_zones _ _ _ _)).trans
    (s.zone?_modRun z y fun r => r.toSuspect s.now (s.profile z))

theorem State.zone?_restoreDegraded {s : State} {z : Nat} {x : Zone} (hx : s.zone? z = some x) (y : Nat) :
    (s.restoreDegraded z).zone? y = if y = z then
      some { x with run := if (s.profile z).tSuspect ≤ x.eval.evidence then
          { x.run with graceDeadline := none }.toSuspect s.now (s.profile z)
        else { x.run with graceDeadline := none, state := .normal, reason := none } }
    else s.zone? y := by
  simp only [State.restoreDegraded, hx, Option.any_some, decide_eq_true_eq]
  by_cases hy : y = z
  · subst hy
    split <;> rename_i h
    · simp only [State.zone?_raise, State.zone?_enterSuspect, State.zone?_modRun, hx, Option.map_some, if_true]; rfl
    · simp only [State.zone?_raise, State.zone?_modRun, hx, Option.map_some, if_true]
  · split <;>
      simp only [State.zone?_raise, State.zone?_enterSuspect, State.zone?_modRun, hy, if_false]

/-- A hand-off keeps every other zone (R15). -/
theorem State.handOff_keeps (s : State) (z : Nat) (new : Evaluability) : s.KeepsOthers (s.handOff z new) z := by
  intro y hy
  simp only [State.handOff]
  split
  · rfl
  · rename_i x hx
    split <;> first
      | rfl
      | simp only [State.zone?_enterAbsorbed, State.zone?_enterDegraded, State.zone?_changeDegraded,
          State.zone?_restoreAbsorbed, State.zone?_restoreDegraded hx, hy, if_false]

/-- A hand-off never moves a line (R115). -/
theorem State.handOff_lines (s : State) (z : Nat) (new : Evaluability) : (s.handOff z new).lines = s.lines := by
  have suspect : ∀ t : State, (t.enterSuspect z).lines = t.lines := fun t => State.raiseTrigger_lines _ _ _ _
  have restore : (s.restoreDegraded z).lines = s.lines := by
    simp only [State.restoreDegraded]; split
    · exact suspect _
    · rfl
  simp only [State.handOff]
  split
  · rfl
  · split <;> first
      | rfl
      | exact State.abandonProof_lines _ z
      | exact restore

/-- A hand-off that reaches a TRIPPED or LOCKOUT zone does nothing (R91). -/
theorem State.handOff_of_tripped {s : State} {z : Nat} {x : Zone} (hx : s.zone? z = some x) (ht : x.isTripped = true)
    (new : Evaluability) : s.handOff z new = s := by
  simp only [Zone.isTripped, decide_eq_true_eq] at ht
  rcases ht with h | h <;> simp [State.handOff, hx, h]

/-- A hand-off neither makes nor ends a trip (R91, R96, R97, R99). -/
theorem State.handOff_tripped (s : State) (z y : Nat) (new : Evaluability) :
    ((s.handOff z new).zone? y).any Zone.isTripped = (s.zone? y).any Zone.isTripped := by
  by_cases hy : y = z
  · subst hy
    cases hx : s.zone? y with
    | none => simp [State.handOff, hx]
    | some x =>
      simp only [State.handOff, hx]
      split <;> rename_i hs <;> try rename_i _ h
      all_goals
        simp only [State.zone?_enterAbsorbed, State.zone?_enterDegraded, State.zone?_changeDegraded,
          State.zone?_restoreAbsorbed, State.zone?_restoreDegraded hx, hx, if_true, Option.map_some, Option.any_some,
          Zone.isTripped, ZoneRecord.toAbsorbed, ZoneRecord.toDegraded, ZoneRecord.toSuspect]
        try split
        all_goals simp_all
  · rw [s.handOff_keeps z new y hy]

/-! ## Recomputations -/

/-- A fold of changes of the zones named, each by a function of its own, reads as one change of each (the zones are
distinct). -/
theorem foldl_modify_get {α : Type} (g : Nat → α → α) (zs : List Nat) (hz : zs.Nodup) (xs : List (Option α)) (y : Nat) :
    ((zs.foldl (fun xs z => xs.modify z (Option.map (g z))) xs)[y]?).join
      = if y ∈ zs then (xs[y]?).join.map (g y) else (xs[y]?).join := by
  induction zs generalizing xs with
  | nil => simp
  | cons z zs ih =>
    rw [List.foldl_cons, ih (List.nodup_cons.mp hz).2]
    by_cases hy : y = z
    · subst hy
      have hn : y ∉ zs := (List.nodup_cons.mp hz).1
      simp only [hn, if_false, List.mem_cons, true_or, if_true, List.getElem?_modify]
      cases xs[y]? with
      | none => rfl
      | some x => cases x <;> rfl
    · have hm : (xs.modify z (Option.map (g z)))[y]? = xs[y]? := by simp [Ne.symm hy]
      simp only [hm, List.mem_cons, hy, false_or]

theorem Tables.zonesOf_nodup (t : Tables) (f : Fin 4) : (t.zonesOf f).Nodup :=
  List.Nodup.filter _ List.nodup_range

theorem Tables.mem_zonesOf {t : Tables} {f : Fin 4} {z : Nat} :
    z ∈ t.zonesOf f ↔ ∃ r, t.position? z = some r ∧ r.feeder = f := by
  simp only [Tables.zonesOf, Tables.indices, List.mem_filter, List.mem_range, Option.any_eq_true, decide_eq_true_eq]
  constructor
  · rintro ⟨-, r, hr, hf⟩; exact ⟨r, hr, hf⟩
  · rintro ⟨r, hr, hf⟩
    refine ⟨?_, r, hr, hf⟩
    have := Tables.node?_of_position? hr
    by_contra hn
    simp [Tables.node?, List.getElem?_eq_none (Nat.le_of_not_lt hn)] at this

/-- The new records of a feeder (R12, R14): each of its zones takes its record, and no other zone changes. -/
theorem State.zone?_replaceTopology (s : State) (f : Fin 4) (y : Nat) :
    (s.replaceTopology f).zone? y
      = if y ∈ s.active.zonesOf f then (s.zone? y).map fun x => x.withTopology (s.newTopology y) else s.zone? y := by
  simp only [State.zone?, State.replaceTopology]
  exact foldl_modify_get (fun z (x : Zone) => x.withTopology (s.newTopology z)) _ (s.active.zonesOf_nodup f) s.zones y

theorem State.replaceTopology_tripped (s : State) (f : Fin 4) (y : Nat) :
    ((s.replaceTopology f).zone? y).any Zone.isTripped = (s.zone? y).any Zone.isTripped := by
  rw [State.zone?_replaceTopology]
  split
  · cases s.zone? y <;> rfl
  · rfl

/-- A recomputation neither makes nor ends a trip. -/
theorem State.recompute_tripped (s : State) (f : Fin 4) (y : Nat) :
    ((s.recompute f).zone? y).any Zone.isTripped = (s.zone? y).any Zone.isTripped := by
  rw [← s.replaceTopology_tripped f y]
  have : ∀ (hs : List (Nat × Evaluability)) (t : State),
      ((hs.foldl (fun t h => t.handOff h.1 h.2) t).zone? y).any Zone.isTripped = (t.zone? y).any Zone.isTripped := by
    intro hs
    induction hs with
    | nil => intro t; rfl
    | cons h hs ih => intro t; rw [List.foldl_cons, ih, State.handOff_tripped]
  exact this _ _

/-- A recomputation never moves a line. -/
theorem State.recompute_lines (s : State) (f : Fin 4) : (s.recompute f).lines = s.lines := by
  have : ∀ (hs : List (Nat × Evaluability)) (t : State), (hs.foldl (fun t h => t.handOff h.1 h.2) t).lines = t.lines := by
    intro hs
    induction hs with
    | nil => intro t; rfl
    | cons h hs ih => intro t; rw [List.foldl_cons, ih, State.handOff_lines]
  exact this _ _

/-- What an event may do to the proof record without touching a pulse: nothing, or complete a pending zone proof. -/
def State.KeepsPulse (s t : State) : Prop := ∀ l, t.pulseOn l = s.pulseOn l

theorem State.KeepsPulse.of_proof {s t : State} (h : t.proof = s.proof) : s.KeepsPulse t := fun l => by
  simp only [State.pulseOn, h]

theorem State.KeepsPulse.trans {s t u : State} (h : s.KeepsPulse t) (k : t.KeepsPulse u) : s.KeepsPulse u :=
  fun l => (k l).trans (h l)

theorem State.completeProof_keepsPulse {s : State} (h : s.proof.state ≠ .pulseRunning) (status : Status)
    (data : List Byte) : s.KeepsPulse (s.completeProof status data) := fun l => by
  simp [State.pulseOn, State.completeProof, h]

theorem State.abandonProof_keepsPulse (s : State) (z : Nat) : s.KeepsPulse (s.abandonProof z) := by
  simp only [State.abandonProof]; split
  · rename_i h; exact State.completeProof_keepsPulse (by rw [h.1]; decide) _ _
  · exact .of_proof rfl

theorem State.flushHeld_keepsPulse (s : State) : s.KeepsPulse s.flushHeld := by
  rcases s.flushHeld_cases with h | ⟨h, -, e⟩
  · rw [h]; exact .of_proof rfl
  · rw [e]; intro l; simp [State.pulseOn, Proof.idle, h]

theorem State.recomputeLines_keepsPulse (s : State) : s.KeepsPulse s.recomputeLines := fun _ => rfl

theorem State.handOff_keepsPulse (s : State) (z : Nat) (new : Evaluability) : s.KeepsPulse (s.handOff z new) := by
  have suspect : ∀ t : State, (t.enterSuspect z).proof = t.proof := fun t => State.raiseTrigger_proof _ _ _ _
  have restore : (s.restoreDegraded z).proof = s.proof := by
    simp only [State.restoreDegraded]; split
    · exact suspect _
    · rfl
  simp only [State.handOff]
  split
  · exact .of_proof rfl
  · split <;> first
      | exact .of_proof rfl
      | exact .of_proof restore
      | exact State.abandonProof_keepsPulse (s.modZone z _) z

theorem State.recompute_keepsPulse (s : State) (f : Fin 4) : s.KeepsPulse (s.recompute f) := by
  have : ∀ (hs : List (Nat × Evaluability)) (t : State), t.KeepsPulse (hs.foldl (fun t h => t.handOff h.1 h.2) t) := by
    intro hs
    induction hs with
    | nil => intro t; exact .of_proof rfl
    | cons h hs ih => intro t; exact (t.handOff_keepsPulse h.1 h.2).trans (ih _)
  exact (State.KeepsPulse.of_proof (t := s.replaceTopology f) rfl).trans (this _ _)

/-- A recomputation of a feeder keeps the lines following (R115 names no such event). -/
theorem State.recompute_linesFollow {s : State} (h : s.LinesFollow) (f : Fin 4) : (s.recompute f).LinesFollow :=
  h.congr (s.recompute_lines f) (s.recompute_outside f).active (s.recompute_outside f).presence (s.recompute_tripped f)
    (s.recompute_keepsPulse f)

/-! ## The feeder expiry -/

/-- An evaluation keeps every other zone (R61). -/
theorem State.evaluateZone_keeps (s : State) (z : Nat) : s.KeepsOthers (s.evaluateZone z) z := by
  intro y hy
  simp only [State.evaluateZone]
  split
  · rfl
  · split
    · rfl
    · split
      · simp only [State.takeDecision]
        split
        · exact State.zone?_modZone_other _ _ hy
        · simp [State.zone?_enterSuspect, hy, State.zone?_modZone]
        · simp only [State.raiseWouldTrip]
          split <;> simp [State.zone?_raise, State.zone?_modRun, State.zone?_enterSuspect, hy, State.zone?_modZone]
        · simp only [State.raiseWouldTrip]
          split <;> simp [State.zone?_raise, State.zone?_modRun, hy, State.zone?_modZone]
        · simp only [State.confirm]
          split
          · simp [State.zone?_modZone, hy]
          · simp [State.zone?, State.raiseTrigger_zones, State.recomputeLines, State.abandonProof_zones, State.raise,
              State.modRun, State.modZone, Ne.symm hy]
        · simp [State.zone?_modRun, hy, State.zone?_modZone]
      · rfl

theorem State.foldl_modRun (g : Nat → ZoneRecord → ZoneRecord) (zs : List Nat) (s : State) :
    zs.foldl (fun u z => u.modRun z (g z)) s = { s with
      zones := zs.foldl (fun xs z => xs.modify z (Option.map fun x : Zone => { x with run := g z x.run })) s.zones } := by
  induction zs generalizing s with
  | nil => rfl
  | cons z zs ih => rw [List.foldl_cons, ih, List.foldl_cons]; rfl

/-- Step 1 of R61: the latched mode is in force, and nothing but the feeder's record and the zones changes. -/
theorem State.latchMode_eq (s : State) (f : Fin 4) : s.latchMode f = { s with
    feeders := s.feeders.set f { s.feeders.get f with effective := (s.feeders.get f).requested }
    zones := (s.latchMode f).zones } := by
  simp only [State.latchMode, State.foldl_modRun]

/-- Step 1 of R61: the trip counts of the feeder's zones are lowered to the lockout limits of the profiles now active. -/
theorem State.zone?_latchMode (s : State) (f : Fin 4) (y : Nat) :
    (s.latchMode f).zone? y = if y ∈ s.active.zonesOf f then
        (s.zone? y).map fun x => { x with run := x.run.capTrips ((s.latchMode f).profile y).lockoutLimit }
      else s.zone? y := by
  have profile : (s.latchMode f).profile y = State.profile { s with
      feeders := s.feeders.set f { s.feeders.get f with effective := (s.feeders.get f).requested } } y := by
    rw [State.latchMode_eq]; rfl
  rw [profile]
  simp only [State.latchMode, State.foldl_modRun, State.zone?]
  exact foldl_modify_get _ _ (s.active.zonesOf_nodup f) s.zones y

end Sys2Proof.Machine
end

