-- ==== Sys2Proof/Laws/Management.lean ====
section
/-!
SUPPORT. The management unit: a MANAGE frame's code against the commands (R121, R128), what every command's taking is, and
what a command keeps when its effect keeps it (R165, R166).
-/

namespace Sys2Proof.Machine

/-! ## The command a code names -/

theorem exec_ite (c : Prop) [Decidable c] (i j : Instr) (s : State) :
    exec (if c then i else j) s = if c then exec i s else exec j s := by split <;> rfl

/-- The command a MANAGE payload spells has the meaning its code names in the table of R121. -/
theorem exec_commandOf (code tag : Byte) (params : List Byte) (s : State) :
    exec (commandOf code tag params) s = execManage code tag params s := by
  simp only [commandOf, exec_ite]
  rfl

/-- The outcome is that of a command taken by the reply discipline of R165. -/
def Taken (code tag : Byte) (s : State) (o : Host.Outcome State Fault Refusal) : Prop :=
  ∃ body, o = .next (s.takeCommand code tag body)

theorem Taken.intro {code tag : Byte} {s : State} (body : State → Answer) :
    Taken code tag s (.next (s.takeCommand code tag body)) := ⟨body, rfl⟩

theorem Taken.ite {code c tag : Byte} {s : State} {a b : Host.Outcome State Fault Refusal}
    (ha : Taken c tag s a) (hb : code ≠ c → Taken code tag s b) : Taken code tag s (if code = c then a else b) := by
  by_cases h : code = c
  · rw [if_pos h, h]; exact ha
  · rw [if_neg h]; exact hb h

theorem execBadCommand_of_unlisted {code : Byte} (h : code ∉ commandCodes) (tag : Byte) (params : List Byte) (s : State) :
    execBadCommand code tag params s = .next (s.takeCommand code tag fun s => refuse s .badCommand) := by
  rw [execBadCommand, if_neg h]

/-- Whatever its code, a MANAGE frame's command is taken by the reply discipline of R165. -/
theorem execManage_taken (code tag : Byte) (params : List Byte) (s : State) :
    Taken code tag s (execManage code tag params s) := by
  unfold execManage
  iterate 27 refine Taken.ite (.intro _) fun _ => ?_
  refine ⟨fun s => refuse s .badCommand, execBadCommand_of_unlisted ?_ tag params s⟩
  simp only [commandCodes, List.mem_cons, List.not_mem_nil, or_false, not_or]
  (repeat' apply And.intro) <;> assumption

/-! ## What a command keeps -/

/-- A property of the state that the reply discipline does not touch: replies, counters and the end of a waiting proof. -/
structure Untouched (P : State → Prop) : Prop where
  replies : ∀ (t : State) r, P t → P { t with replies := r }
  counters : ∀ (t : State) c, P t → P { t with counters := c }
  flush : ∀ t : State, P t → P t.flushHeld

/-- A command keeps such a property where its effect keeps it. -/
theorem Untouched.takeCommand {P : State → Prop} (u : Untouched P) {s : State} (h : P s) (code tag : Byte)
    {body : State → Answer} (hb : P (body s).state) : P (s.takeCommand code tag body) := by
  simp only [State.takeCommand]
  split
  · exact u.flush _ (u.replies _ _ hb)
  · exact u.counters _ _ h

theorem keeps_whenRunning {P : State → Prop} {s : State} (h : P s) {k : Answer} (hk : s.engine = .running → P k.state) :
    P (whenRunning s k).state := by
  cases he : s.engine
  · rw [whenRunning_of_unconfigured he]; exact h
  · rw [whenRunning_of_running he]; exact hk he

theorem keeps_noParams {P : State → Prop} {s : State} (h : P s) {params : List Byte} {k : Answer}
    (hk : params = [] → P k.state) : P (noParams s params k).state := by
  by_cases hp : params = []
  · subst hp; exact hk rfl
  · rw [noParams_of_ne hp]; exact h

theorem keeps_onNode {P : State → Prop} {s : State} (h : P s) {params : List Byte}
    {k : Nat → NodeRec → NodeRun → Answer}
    (hk : ∀ i r n, i < Config.nodeCount → s.active.node? i = some r → s.node? i = some n → P (k i r n).state) :
    P (onNode s params k).state := by
  refine keeps_whenRunning h fun _ => ?_
  split
  · split
    · split
      · exact hk _ _ _ ‹_› ‹_› ‹_›
      · exact h
    · exact h
  · exact h

theorem keeps_onZone {P : State → Prop} {s : State} (h : P s) {params : List Byte} {k : Nat → NodeRec → Zone → Answer}
    (hk : ∀ i r x, i.toNat < Config.nodeCount → params = [i] → s.active.position? i.toNat = some r →
      s.zone? i.toNat = some x → P (k i.toNat r x).state) :
    P (onZone s params k).state := by
  refine keeps_whenRunning h fun _ => ?_
  split
  · split
    · split
      · rename_i r x hz
        simp only [State.zoneAt, Option.bind_eq_some_iff, Option.map_eq_some_iff, Prod.mk.injEq] at hz
        obtain ⟨r', hr, x', hx, rfl, rfl⟩ := hz
        exact hk _ _ _ ‹_› rfl hr hx
      · exact h
    · exact h
  · exact h

end Sys2Proof.Machine
end

