-- ==== Sys2Proof/Laws/Tables.lean ====
section
/-!
SUPPORT. Bytes and numbers there and back, what a record read from bytes guarantees (R2, R121, R153, R154), and what the
validation finds: depths, and the failing record of the lowest index (R3, R157).
-/

namespace Sys2Proof.Machine

/-! ## Bytes and numbers -/

@[simp] theorem byteOf_toNat (b : Byte) : byteOf b.toNat = b := by simp [byteOf]

theorem toNat_byteOf {n : Nat} (h : n < 256) : (byteOf n).toNat = n := by simp [byteOf, Nat.mod_eq_of_lt h]

@[simp] theorem be16_length (n : Nat) : (be16 n).length = 2 := rfl

@[simp] theorem be32_length (n : Nat) : (be32 n).length = 4 := rfl

/-- A two-byte field read back is the number written, where it fits (R121). -/
theorem u16_be16 {n : Nat} (h : n ≤ 65535) : u16 (byteOf (n / 256)) (byteOf n) = n := by
  simp [u16, byteOf]; omega

/-- A two-byte field of two given bytes (R121). -/
theorem be16_u16 (hi lo : Byte) : be16 (u16 hi lo) = [hi, lo] := by
  have h1 := hi.isLt
  have h2 := lo.isLt
  simp only [be16, u16, byteOf, List.cons.injEq, and_true]
  constructor <;> apply BitVec.eq_of_toNat_eq <;> simp <;> omega

theorem u16_le (hi lo : Byte) : u16 hi lo ≤ 65535 := by
  have h1 := hi.isLt
  have h2 := lo.isLt
  simp only [u16]; omega

theorem finOf_of_eq {n : Nat} {b : Byte} {k : Fin n} (h : b.toNat = k.val) : finOf n b = some k := by simp [finOf, h]

theorem finOf_of_le {n : Nat} {b : Byte} (h : n ≤ b.toNat) : finOf n b = none := by simp [finOf]; omega

/-! ## Records read from bytes -/

/-- A header read from bytes is in range, and took 18 bytes (R153). -/
theorem parseHeader_some {bytes : List Byte} {h : Header} (hp : parseHeader bytes = some h) :
    bytes.length = 18 ∧ h.inRange = true := by
  simp only [parseHeader, bind, Option.bind_eq_some_iff] at hp
  obtain ⟨_, -, _, -, _, -, _, -, hp⟩ := hp
  split at hp
  · rename_i hc; cases hp; exact ⟨hc.1, hc.2.2⟩
  · cases hp

/-- A present node record read from bytes is in range for its role (R154). -/
theorem parsePresentNode_some {bytes : List Byte} {r : NodeRec} (hp : parsePresentNode bytes = some r) :
    r.inRange = true := by
  simp only [parsePresentNode, bind, Option.bind_eq_some_iff] at hp
  obtain ⟨_, -, _, -, _, -, _, -, _, -, _, -, _, -, _, -, _, -, hp⟩ := hp
  split at hp
  · cases hp; assumption
  · cases hp

/-- A node record read from bytes took 13 bytes, and is in range where it is present (R154). -/
theorem parseNode_some {bytes : List Byte} {r : Option NodeRec} (hp : parseNode bytes = some r) :
    bytes.length = 13 ∧ r.all NodeRec.inRange = true := by
  simp only [parseNode] at hp
  split at hp
  · rename_i hl
    refine ⟨hl, ?_⟩
    split at hp
    · cases hp; rfl
    · split at hp
      · obtain ⟨q, hq, rfl⟩ := Option.map_eq_some_iff.mp hp
        exact parsePresentNode_some hq
      · cases hp
  · cases hp

/-- A zone profile read from bytes is in range, and took 31 bytes (R153). -/
theorem parseZoneProfile_some {bytes : List Byte} {p : ZoneProfile} (hp : parseZoneProfile bytes = some p) :
    bytes.length = 31 ∧ p.inRange = true := by
  simp only [parseZoneProfile, bind, Option.bind_eq_some_iff] at hp
  obtain ⟨_, -, hp⟩ := hp
  split at hp
  · rename_i hc; cases hp; exact hc
  · cases hp

/-- A channel profile read from bytes is in range, and took 26 bytes (R153). -/
theorem parseChannelProfile_some {bytes : List Byte} {p : ChannelProfile} (hp : parseChannelProfile bytes = some p) :
    bytes.length = 26 ∧ p.inRange = true := by
  simp only [parseChannelProfile] at hp
  split at hp
  · rename_i hc; cases hp; exact hc
  · cases hp

/-- A numbered record's number is below its bound, and its bytes follow the number (R153). -/
theorem numbered_some {n : Nat} {params : List Byte} {ib : Nat × List Byte} (h : numbered n params = some ib) :
    ib.1 < n ∧ params.length = ib.2.length + 1 := by
  cases params with
  | nil => cases h
  | cons i bytes =>
    simp only [numbered] at h
    split at h
    · cases h; exact ⟨‹_›, rfl⟩
    · cases h

/-! ## Depth and validation (R3, R157) -/

/-- A record that exists has an index below the number of records. -/
theorem lt_of_node?_eq {t : Tables} {i : Nat} {r : NodeRec} (h : t.node? i = some r) : i < t.nodes.length := by
  by_contra hn
  simp [Tables.node?, List.getElem?_eq_none (Nat.le_of_not_lt hn)] at h

/-- A depth that the resolver computes is the position's. -/
theorem hasDepth_of_depth {t : Tables} {fuel i d : Nat} (h : t.depth fuel i = some d) : HasDepth t i d := by
  induction fuel generalizing i d with
  | zero => cases h
  | succ n ih =>
    simp only [Tables.depth] at h
    split at h
    · cases h
    · rename_i r hr
      split at h
      · rename_i hrole; cases h; exact .head hr hrole
      · cases h
      · rename_i hrole
        obtain ⟨p, hp, h⟩ := Option.bind_eq_some_iff.mp h
        obtain ⟨e, he, rfl⟩ := Option.map_eq_some_iff.mp h
        exact .node hr hrole hp (ih he)

/-- With fuel for every level, the resolver computes the depth. -/
theorem HasDepth.depth {t : Tables} {i d : Nat} (h : HasDepth t i d) {fuel : Nat} (hf : d ≤ fuel) : t.depth fuel i = some d := by
  induction h generalizing fuel with
  | head hr hrole =>
    obtain ⟨n, rfl⟩ : ∃ n, fuel = n + 1 := ⟨fuel - 1, by omega⟩
    simp [Tables.depth, hr, hrole]
  | node hr hrole hp _ ih =>
    obtain ⟨n, rfl⟩ : ∃ n, fuel = n + 1 := ⟨fuel - 1, by omega⟩
    simp [Tables.depth, hr, hrole, hp, ih (Nat.le_of_succ_le_succ hf)]

theorem HasDepth.unique {t : Tables} {i d e : Nat} (h : HasDepth t i d) (k : HasDepth t i e) : d = e :=
  Option.some.inj ((h.depth (Nat.le_max_left d e)).symm.trans (k.depth (Nat.le_max_right d e)))

/-- The positions from one up to its HEAD are distinct, so a depth is at most the number of records. -/
theorem HasDepth.le_length {t : Tables} {i d : Nat} (h : HasDepth t i d) : d ≤ t.nodes.length := by
  have chain : ∃ path : List Nat, path.length = d ∧ path.Nodup ∧ ∀ j ∈ path, j < t.nodes.length ∧ ∃ e ≤ d, HasDepth t j e := by
    induction h with
    | @head i r hr hrole => exact ⟨[i], rfl, by simp, by simpa using ⟨lt_of_node?_eq hr, 1, Nat.le_refl 1, .head hr hrole⟩⟩
    | @node i p d r hr hrole hp below ih =>
      obtain ⟨path, hlen, hdistinct, hpath⟩ := ih
      refine ⟨i :: path, by simp [hlen], List.nodup_cons.mpr ⟨fun hi => ?_, hdistinct⟩, fun j hj => ?_⟩
      · obtain ⟨-, e, he, hd⟩ := hpath i hi
        have := hd.unique (.node hr hrole hp below)
        omega
      · rcases List.mem_cons.mp hj with rfl | hj
        · exact ⟨lt_of_node?_eq hr, d + 1, Nat.le_refl _, .node hr hrole hp below⟩
        · obtain ⟨hlt, e, he, hd⟩ := hpath j hj
          exact ⟨hlt, e, Nat.le_succ_of_le he, hd⟩
  obtain ⟨path, rfl, hdistinct, hpath⟩ := chain
  have := (hdistinct.subperm fun j hj => List.mem_range.mpr (hpath j hj).1).length_le
  simpa using this

/-- The depth that the validation computes is the depth of R3. -/
theorem Tables.depth_iff {t : Tables} {i d : Nat} : t.depth t.nodes.length i = some d ↔ HasDepth t i d :=
  ⟨hasDepth_of_depth, fun h => h.depth h.le_length⟩

/-- A check over the records finds the failing record of the lowest index. -/
theorem Tables.firstNode_some {t : Tables} {bad : Nat → NodeRec → Bool} {i : Nat} :
    t.firstNode bad = some i ↔ (∃ r, t.node? i = some r ∧ bad i r = true)
      ∧ ∀ j r, t.node? j = some r → bad j r = true → i ≤ j := by
  simp only [Tables.firstNode, Tables.indices, List.find?_range_eq_some, Option.any_eq_true, List.mem_range,
    Bool.not_eq_true', Option.any_eq_false]
  constructor
  · rintro ⟨⟨r, hr, hb⟩, -, hlow⟩
    exact ⟨⟨r, hr, hb⟩, fun j q hq hj => Nat.le_of_not_lt fun hlt => by simp [hlow j hlt q hq] at hj⟩
  · rintro ⟨⟨r, hr, hb⟩, hlow⟩
    exact ⟨⟨r, hr, hb⟩, lt_of_node?_eq hr, fun j hj q hq => by
      by_contra hn
      exact absurd (hlow j q hq (by simpa using hn)) (by omega)⟩

theorem Tables.firstNode_none {t : Tables} {bad : Nat → NodeRec → Bool} :
    t.firstNode bad = none ↔ ∀ j r, t.node? j = some r → bad j r = false := by
  simp only [Tables.firstNode, Tables.indices, List.find?_eq_none, List.mem_range, Option.any_eq_true, not_exists, not_and,
    Bool.not_eq_true]
  exact ⟨fun h j r hr => h j (lt_of_node?_eq hr) r hr, fun h j _ r hr => h j r hr⟩

end Sys2Proof.Machine
end

