-- ==== Sys2Proof/Laws/Stream.lean ====
section
/-!
SUPPORT. The receivers: what hunting makes of skipped bytes and of a sync pair (R123), and what a whole frame is (R124, R125),
and what a presence update does (R132).
-/

namespace Sys2Proof.Machine

/-- Bytes other than 0xC5 leave a hunt without a candidate, with bytes skipped where there were any (R123). -/
theorem hunt_skip {noise : List Byte} (h : ∀ b ∈ noise, b ≠ Config.sync0) (skipped : Bool) (bytes : List Byte) :
    hunt false skipped (noise ++ bytes) = hunt false (skipped || !noise.isEmpty) bytes := by
  induction noise generalizing skipped with
  | nil => simp
  | cons b bs ih =>
    have hb : b ≠ Config.sync0 := h b (by simp)
    simp [hunt, hb, ih fun x hx => h x (by simp [hx])]

/-- The sync pair ends the hunt; the bytes after it stand (R123). -/
@[simp] theorem hunt_pair (skipped : Bool) (rest : List Byte) :
    hunt false skipped (Config.sync0 :: Config.sync1 :: rest) = .found skipped rest := by
  simp [hunt]

/-- A repeated 0xC5 keeps a candidate, and the first one counts as skipped (R123). -/
theorem hunt_repeated (skipped : Bool) (bytes : List Byte) :
    hunt true skipped (Config.sync0 :: bytes) = hunt true true bytes := by
  rw [hunt, if_neg (by decide), if_pos rfl]

theorem collected_of_inFrame {s : State} {p : Port} (h : s.InFrame p) (bytes : List Byte) :
    (s.rx p).collected bytes = some bytes := by
  simp only [State.InFrame] at h
  rw [h]; rfl

/-- A frame check on bytes that are no whole frame does nothing (R125). -/
theorem execFrameCheck_of_none {s : State} {p : Port} {bytes : List Byte} (h : s.InFrame p) (hp : parseFrame bytes = none) :
    execFrameCheck p bytes s = .next s := by
  simp [execFrameCheck, collected_of_inFrame h, hp]

/-- A frame check on a whole frame: the receiver hunts again, and the frame is checked (R125). -/
theorem execFrameCheck_of_some {s : State} {p : Port} {bytes : List Byte} {f : Frame} (h : s.InFrame p)
    (hp : parseFrame bytes = some f) :
    execFrameCheck p bytes s = .next ((s.setRx p (.hunting false false)).checkFrame p f) := by
  simp [execFrameCheck, collected_of_inFrame h, hp]

/-- A whole frame has a payload of at most 200 bytes, and two CRC bytes after it (R121, R124). -/
theorem parseFrame_payload {bytes : List Byte} {f : Frame} (h : parseFrame bytes = some f) :
    f.payload.length ≤ Config.maxPayload := by
  unfold parseFrame at h
  split at h
  · split at h
    · rename_i hl; cases h
      simp only [List.length_take]
      exact Nat.le_trans (Nat.min_le_left _ _) hl.1
    · cases h
  · cases h

/-- A sign of life sets the deadline from the limit it is given, whatever the ACTIVE header says (R132). -/
@[simp] theorem State.signOfLife_presenceDeadline (s : State) (limit : Nat) :
    (s.signOfLife limit).presenceDeadline = some (after s.now limit) := by
  unfold State.signOfLife; split <;> rfl

/-- A sign of life leaves the controller PRESENT (R132). -/
@[simp] theorem State.signOfLife_presence (s : State) (limit : Nat) : (s.signOfLife limit).presence = .present := by
  unfold State.signOfLife
  cases s.presence <;> simp [State.recomputeLines]

/-- No presence update is due (R132). -/
theorem execPresenceUpdate_of_nil {s : State} (h : s.awaitingPresence = []) : execPresenceUpdate s = .next s := by
  simp [execPresenceUpdate, h]

/-- The oldest due presence update is taken, with the limit kept at its frame's acceptance (R128, R132). -/
theorem execPresenceUpdate_of_cons {s : State} {limit : Nat} {rest : List Nat} (h : s.awaitingPresence = limit :: rest) :
    execPresenceUpdate s = .next (State.signOfLife { s with awaitingPresence := rest } limit) := by
  simp [execPresenceUpdate, h]

/-- The address of the engine does not depend on the streams (R135). -/
theorem State.address_setRx (s : State) (p : Port) (r : Receiver) : (s.setRx p r).address = s.address := by cases p <;> rfl

end Sys2Proof.Machine
end

