-- ==== Sys2Proof/WellFormed.lean ====
section
/-!
DEFINITION. Which commands are well formed: operands in the ranges the spec gives them.
-/

namespace Sys2Proof

/-- The parameters of a MANAGE frame: at most 198 bytes (R121, section 6). -/
def paramsOk (params : List Byte) : Bool := decide (params.length ≤ 198)

/-- A node index or zone (section 5.5). -/
def indexOk (i : Nat) : Bool := decide (i < Config.nodeCount)

/-- The operands of a command are in range: node indices and zones below 48, parameters of at most 198 bytes, an
unlisted code for BAD_COMMAND, at most the four header bytes for a length error, at most a whole frame after its sync
pair for a frame check, at least one byte for a hunt. -/
def Instr.wf : Instr → Bool
  | .hardReset _ => true
  | .lengthError _ bytes => decide (1 ≤ bytes.length ∧ bytes.length ≤ 4)
  | .frameCheck _ bytes => decide (1 ≤ bytes.length ∧ bytes.length ≤ Config.maxPayload + 6)
  | .silenceExpiry i => indexOk i
  | .motionHoldExpiry i _ => indexOk i
  | .feederEvaluationExpiry _ => true
  | .lossRecordExpiry z => indexOk z
  | .stepTimerExpiry z => indexOk z
  | .tripMemoryExpiry z => indexOk z
  | .graceExpiry z => indexOk z
  | .presenceUpdate => true
  | .controllerFrameRouting => true
  | .controllerSilenceExpiry => true
  | .controllerTxStart => true
  | .controllerTxEnd => true
  | .sensorTxStart => true
  | .sensorTxEnd => true
  | .pulseExpiry => true
  | .badCommand code _ params => decide (code ∉ Machine.commandCodes) && paramsOk params
  | .identify _ params => paramsOk params
  | .readStatus _ params => paramsOk params
  | .readNode _ params => paramsOk params
  | .readZone _ params => paramsOk params
  | .readHealth _ params => paramsOk params
  | .readCounters _ params => paramsOk params
  | .clearCounters _ params => paramsOk params
  | .clearHealthNode _ params => paramsOk params
  | .loadHeader _ params => paramsOk params
  | .loadNode _ params => paramsOk params
  | .loadZoneProfile _ params => paramsOk params
  | .loadChannelProfile _ params => paramsOk params
  | .clearStaged _ params => paramsOk params
  | .readTable _ params => paramsOk params
  | .activate _ params => paramsOk params
  | .setMode _ params => paramsOk params
  | .releaseZone _ params => paramsOk params
  | .clearLockout _ params => paramsOk params
  | .barNode _ params => paramsOk params
  | .admitNode _ params => paramsOk params
  | .captureNow _ params => paramsOk params
  | .readCapture _ params => paramsOk params
  | .freeCapture _ params => paramsOk params
  | .proveZone _ params => paramsOk params
  | .proveLine _ params => paramsOk params
  | .cancelProof _ params => paramsOk params
  | .restartEngine _ params => paramsOk params
  | .syncPairFound _ bytes => decide (1 ≤ bytes.length)

end Sys2Proof
end

