-- ==== Sys2Proof/Tests/Slice0.lean ====
section
/-!
SUPPORT. Tests of the model against the spec's rules and worked examples, the smoke test of WellFormed, and a witness for the
hypotheses of each statement. The feeder is the one of the worked example 1.11.
-/

namespace Sys2Proof.Tests

set_option Elab.async false

open Sys2Proof.Machine

/-! ## States -/

/-- The record of a unit of the feeder of 1.11: index, role, parent, twin. -/
def unit (address : Byte) (role : Role) (parent twin : Option Nat) : NodeRec :=
  ⟨address, 0, role, parent, twin, false, 0, true, false, if role = .twin then none else some ⟨0, 1, 1⟩⟩

/-- The feeder of 1.11, with line 0 DIRECT and line 1 BACKUP. -/
def feeder0 : Tables :=
  { Tables.empty with
    header := { Header.default with policies := ⟨.direct, .backup, .unused, .unused⟩ }
    nodes := [some (unit 11 .head none none), some (unit 12 .node (some 0) none), some (unit 13 .node (some 0) none),
      some (unit 14 .node (some 1) (some 5)), some (unit 15 .node (some 1) none), some (unit 16 .twin none none)]
      ++ List.replicate 42 none }

/-- A runtime record in a state, expecting sequence 5. -/
def run (st : NodeState) : NodeRun :=
  { NodeRun.fresh with
    state := st
    seqExpect := if st = .live ∨ st = .warming then some 5 else none
    silenceDeadline := if st = .live ∨ st = .warming then some 1000 else none
    barReason := if st = .barred then some .command else none }

/-- A zone in a state with evidence and a topology record. -/
def zone (st : ZoneState) (evidence : Nat) (topo : Topology) : Zone :=
  ⟨{ ZoneRecord.fresh with state := st }, { Evaluation.fresh with evidence := evidence }, topo⟩

/-- The topology record of a zone with its own source and a list. -/
def own (z : Nat) (list : List Boundary) : Topology := ⟨z, some z, false, .evaluable, none, list.length, list, []⟩

/-- A running engine on the feeder of 1.11 at time 1000, with the records given for nodes 0 and 1 and zones 0 and 1. -/
def engine (n0 n1 : NodeRun) (z0 z1 : Zone) : State :=
  { State.reset with
    now := 1000
    engine := .running
    active := feeder0
    nodes := [some n0, some n1, some (run .live), some (run .live), some (run .live), some (run .live)]
      ++ List.replicate 42 none
    zones := [some z0, some z1, some (zone .normal 0 (own 2 [])), some (zone .normal 0 (own 3 [])),
      some (zone .normal 0 (own 4 []))] ++ List.replicate 43 none
    feeders := .all ⟨some 1000, .heightened, .standard⟩
    replies := [] }

/-- The start of 1.11: every unit LIVE, every zone NORMAL. -/
def start : State :=
  engine (run .live) (run .live) (zone .normal 0 (own 0 [⟨1, 1, false⟩, ⟨2, 2, false⟩]))
    (zone .normal 0 (own 1 [⟨3, 3, false⟩, ⟨4, 4, false⟩]))

/-- The start of 1.11 with node 1 and zone 1 in given states. -/
def with1 (n : NodeState) (z : ZoneState) (evidence : Nat) : State :=
  engine (run .live) (run n) (zone .normal 0 (own 0 [⟨1, 1, false⟩, ⟨2, 2, false⟩]))
    (zone z evidence (own 1 [⟨3, 3, false⟩, ⟨4, 4, false⟩]))

/-- An engine after reset whose reply queue is empty. -/
def quiet : State := { State.reset with replies := [] }

/-- The state after a command, the state before it where it stops. -/
def run1 (c : Instr) (s : State) : State :=
  match exec c s with
  | .next t => t
  | _ => s

/-- The status and data of the last reply. -/
def lastReply (s : State) : Option (Status × List Byte) := s.replies.getLast?.map fun r => (r.status, r.data)

/-- A frame with a correct CRC. -/
def frame (kind address sequence : Byte) (payload : List Byte) : Frame := buildFrame kind address sequence payload

/-- A CYCLE payload with no flag: I, V and H the same on each phase. -/
def steady (i v h : Nat) : List Byte := 0 :: (be16 i ++ be16 v ++ be16 h ++ be16 i ++ be16 v ++ be16 h ++ be16 i ++ be16 v ++ be16 h)

theorem canTake_start : start.CanTake := ⟨by decide, by decide⟩
theorem canTake_quiet : quiet.CanTake := ⟨by decide, by decide⟩

/-! ## WellFormed: an ill-formed term for each check -/

theorem test_wf_lengthError : (Instr.lengthError .sensor [0, 0, 0, 0, 0]).wf = false := by decide
theorem test_wf_frameCheck : (Instr.frameCheck .sensor []).wf = false := by decide
theorem test_wf_frameCheck_long : (Instr.frameCheck .sensor (List.replicate 207 0)).wf = false := by decide +kernel
theorem test_wf_silenceExpiry : (Instr.silenceExpiry 48).wf = false := by decide
theorem test_wf_motionHoldExpiry : (Instr.motionHoldExpiry 48 .a).wf = false := by decide
theorem test_wf_zoneExpiries : (Instr.lossRecordExpiry 48).wf = false ∧ (Instr.stepTimerExpiry 48).wf = false
    ∧ (Instr.tripMemoryExpiry 48).wf = false ∧ (Instr.graceExpiry 48).wf = false := by decide
theorem test_wf_badCommand_listed : (Instr.badCommand 0x01 0 []).wf = false := by decide
theorem test_wf_params_long : (Instr.identify 0 (List.replicate 199 0)).wf = false := by decide +kernel
theorem test_wf_hunt_empty : (Instr.syncPairFound .sensor []).wf = false := by decide
theorem test_wf_accepts : (Instr.hardReset 3).wf = true ∧ (Instr.badCommand 0 0 []).wf = true
    ∧ (Instr.loadNode 0 (List.replicate 198 0)).wf = true := by decide +kernel

/-! ## The stream -/

/-- R122: the check value of the CRC over the ASCII digits 1 to 9. -/
theorem test_crc_check_value :
    crc16 [0x31, 0x32, 0x33, 0x34, 0x35, 0x36, 0x37, 0x38, 0x39] = 0x29B1 := by decide +kernel

/-- 7.11: a second sync pair after skipped bytes counts one slip. -/
theorem test_hunt_slip :
    (run1 (.syncPairFound .sensor [0x47, 0x3A, 0x10, 0xC5, 0xC5, 0x3A]) quiet).counters.sensor.slips = 1 := by
  decide +kernel

/-- R123, rows 4 and 5: a held candidate completes the pair, is skipped before another 0xC5, and ends a run of noise. -/
theorem test_hunt_candidate :
    let held := quiet.setRx .sensor (.hunting true false)
    let pair := run1 (.syncPairFound .sensor [0x3A]) held
    let late := run1 (.syncPairFound .sensor [0xC5, 0x3A]) held
    (pair.rxSensor = .collecting [] ∧ pair.counters.sensor.slips = 0)
      ∧ (late.rxSensor = .collecting [] ∧ late.counters.sensor.slips = 1)
      ∧ (run1 (.syncPairFound .sensor [0x47, 0xC5]) held).rxSensor = .hunting true true
      ∧ (run1 (.syncPairFound .sensor [0xC5, 0x47]) quiet).rxSensor = .hunting false true := by
  decide +kernel

/-- 7.11: length 226 is a length error, and its header is hunted again. -/
theorem test_length_error :
    (run1 (.lengthError .sensor [0x11, 0x07, 0x2C, 0xE2]) (quiet.setRx .sensor (.collecting []))).rxSensor
      = .hunting false true := by decide +kernel

/-- R124: a header completed after its first byte hides a sync pair, which is found and counted as a slip. -/
theorem test_length_error_split :
    let t := run1 (.lengthError .sensor [0xC5, 0x3A, 0xE2]) (quiet.setRx .sensor (.collecting [0x11]))
    t.rxSensor = .collecting [0xE2] ∧ t.counters.sensor.lengthErrors = 1 ∧ t.counters.sensor.slips = 1 := by decide +kernel

/-- R125: an accepted IDENT frame takes node 1 from EXPECTED to WARMING. -/
theorem test_frame_check_ident :
    ((run1 (.frameCheck .sensor ((frame 0x12 12 0x2D [0x04, 0, 0x07]).bytes.drop 2))
      ((with1 .expected .absorbed 0).setRx .sensor (.collecting []))).node? 1).map (·.state) = some .warming := by
  decide +kernel

theorem test_presence_update :
    (run1 .presenceUpdate { start with awaitingPresence := [1000] }).presence = .present := by decide +kernel

/-- A first frame that carries ACTIVATE (R128, R132, R138): accepted under the default limit of 1000 ms, routed and counted as
a sign of life at 1000, with a new limit of 500 ms in the STAGED header. -/
def activating : State :=
  { quiet with
    now := 1000
    staged := { feeder0 with header := { feeder0.header with silenceLimit := 500 } }
    awaitingPresence := [1000]
    awaitingRouting := [frame 0x40 248 0 [0x16, 7]] }

/-- R128, R132, R161: in either order the frame's own deadline comes from the old limit, and the new limit then stands. -/
theorem test_presence_order :
    let a := run1 .controllerFrameRouting (run1 .presenceUpdate activating)
    let b := run1 .presenceUpdate (run1 .controllerFrameRouting activating)
    a.presenceDeadline = some 2000 ∧ b.presenceDeadline = some 2000 ∧ a.presence = .present ∧ b.presence = .present
      ∧ a.active.header.silenceLimit = 500 ∧ b.active.header.silenceLimit = 500 ∧ a.engine = .running := by decide +kernel

theorem test_routing_queues :
    (run1 .controllerFrameRouting { start with awaitingRouting := [frame 0x40 249 0 [1, 0]] }).sensorQueue.length = 1 := by
  decide +kernel

theorem test_controller_silence :
    (run1 .controllerSilenceExpiry { start with presence := .present, presenceDeadline := some 1000 }).presence = .absent := by
  decide +kernel

/-- R168: the STARTED notice leaves with sequence 0 and address 248. -/
theorem test_controller_tx_start :
    (run1 .controllerTxStart State.reset).controllerTx.map (·.take 10)
      = some [0xC5, 0x3A, 0x41, 0xF8, 0, 4, 0, 0, 0, 1] := by rfl

theorem test_controller_tx_end :
    (run1 .controllerTxEnd { quiet with controllerTx := some [] }).controllerTx = none := by decide +kernel

theorem test_sensor_tx_start :
    (run1 .sensorTxStart { quiet with sensorQueue := [frame 0x40 249 0 [1, 0]] }).sensorQueue = [] := by decide +kernel

theorem test_sensor_tx_end : (run1 .sensorTxEnd { quiet with sensorTx := some [] }).sensorTx = none := by decide +kernel

theorem test_hard_reset : (run1 (.hardReset 3) start).address = 251 := by decide +kernel

/-! ## Channels (3.11 to 3.13) -/

/-- 3.11, frame 1: both averages step toward 4800, and D is 177. -/
theorem test_channel_step :
    let c := { Channel.fresh with iFast16 := 19200, iSlow16 := 19200, seeded := true }.take .default false false false ⟨300, 0, 0⟩
    c.iFast16 = 15600 ∧ c.iSlow16 = 18975 ∧ dropRatio 50 c = 177 := by decide +kernel

/-- 3.11, frame 4: −6075 / 4 is taken as −1518. -/
theorem test_channel_truncation : averageStep 2 4800 10875 = 9357 ∧ averageStep 6 4800 18536 = 18322 := by decide

/-- 3.13, frames 3 and 17: the flag sets at 708 and clears when the run reaches 8. -/
theorem test_arc_flag : scoreStep 3 500 443 410 90 = 708 ∧ arcStep .default false 0 708 = (true, 0)
    ∧ scoreStep 3 500 151 450 450 = 133 ∧ arcStep .default true 7 133 = (false, 0) := by decide

/-! ## Topology and nodes (1.11) -/

/-- 1.11, event 1: N1 falls SILENT; zone 0 expands through it, zone 1 is ABSORBED with host 0. -/
theorem test_silence_expiry :
    let t := run1 (.silenceExpiry 1) start
    (t.zone? 0).map (fun x => (x.topo.list.map (·.position), x.topo.absorbed, x.eval.lossRecord))
        = some ([2, 3, 4], [1], some 2500)
      ∧ (t.zone? 1).map (fun x => (x.run.state, x.topo.host)) = some (.absorbed, some 0) := by decide +kernel

theorem test_motion_hold_expiry :
    let s := start.setNode 1 { run .live with motionHold := ⟨some 999, some 1000, some 1001⟩ }
    ((run1 (.motionHoldExpiry 1 .b) s).node? 1).map (·.motionHold) = some ⟨some 999, none, some 1001⟩
      ∧ run1 (.motionHoldExpiry 1 .c) s = s := by decide +kernel

theorem test_bar_node :
    let t := run1 (.barNode 7 [1]) start
    (t.node? 1).map (fun n => (n.state, n.barReason)) = some (.barred, some .command)
      ∧ (t.zone? 0).map (·.eval.lossRecord) = some none := by decide +kernel

theorem test_admit_node :
    ((run1 (.admitNode 7 [1]) (with1 .barred .absorbed 0)).node? 1).map (fun n => (n.state, n.barReason))
      = some (.expected, none) := by decide +kernel

theorem test_clear_health_node :
    ((run1 (.clearHealthNode 7 [1]) (start.setNode 1 { run .live with health := ⟨1, 2, 3, 4⟩, exceeded := true })).node?
      1).map (fun n => (n.health, n.exceeded)) = some (⟨0, 0, 0, 0⟩, false) := by decide +kernel

/-- The engine with an auto-barring node 1 in a state, and the thresholds 3 gaps and 1 stale frame. -/
def watched (n : NodeRun) : State :=
  let s := start.setNode 1 n
  let profile := { ChannelProfile.default with thresholds := { ChannelProfile.default.thresholds with gaps := 3, stales := 1 } }
  { s with active := { feeder0 with
      nodes := feeder0.nodes.set 1 (some { unit 12 .node (some 0) none with autoBar := true })
      channelProfiles := feeder0.channelProfiles.set 0 profile } }

/-- What a CYCLE frame leaves of node 1 under these thresholds: its state, its gaps and its stale frames. -/
def cycled (n : NodeRun) (sequence : Byte) : Option (NodeState × Nat × Nat) :=
  (((watched n).trackFrame (frame 0x10 12 sequence (steady 1000 7000 100))).node? 1).map fun n =>
    (n.state, n.health.gaps, n.health.stales)

/-- R29, R30: three missing frames, or one stale frame, bar the LIVE node 1. -/
theorem test_health_bar :
    cycled (run .live) 8 = some (.barred, 3, 0) ∧ cycled (run .live) 4 = some (.barred, 0, 1) := by decide +kernel

/-- R25, R30: the same in WARMING, where two missing frames are counted and the first frame counts none. -/
theorem test_warming_checks : cycled (run .warming) 8 = some (.barred, 3, 0) ∧ cycled (run .warming) 7 = some (.warming, 2, 0)
    ∧ cycled { run .warming with seqExpect := none } 200 = some (.warming, 0, 0) := by decide +kernel

/-- R24: a CYCLE frame at the SILENT node 1, which has auto-return, is the first of a warm-up and seeds the channels. -/
theorem test_silent_returns :
    (((with1 .silent .absorbed 0).trackFrame (frame 0x10 12 9 (steady 300 0 0))).node? 1).map (fun n =>
      (n.state, n.seqExpect, n.warmUp, n.channels.a.iSlow16, n.channels.c.seeded)) = some (.warming, some 10, 1, 4800, true) := by
  decide +kernel

/-! ## Zones -/

/-- R61, R89: evidence 26 decays to T_confirm 24, and the zone trips; line 0 is asserted, the deadline moves by 50 ms. -/
theorem test_feeder_expiry :
    let t := run1 (.feederEvaluationExpiry 0) (with1 .live .suspect 26)
    (t.zone? 1).map (fun x => (x.run.state, x.run.trips, x.eval.evidence)) = some (.tripped, 1, 24)
      ∧ t.lines = ⟨true, false, false, false⟩ ∧ t.feeders.get 0 = ⟨some 1050, .heightened, .heightened⟩ := by
  decide +kernel

theorem test_step_timer_expiry :
    let s := (with1 .live .suspect 9).modRun 1 fun r => { r with stepDeadline := some 1000 }
    (run1 (.stepTimerExpiry 1) s).verdicts.map (fun v => (v.zone, v.kind, v.state)) = [(1, .advisory, .suspect)] := by
  decide +kernel

theorem test_trip_memory_expiry :
    let s := start.modRun 1 fun r => { r with trips := 2, memoryDeadline := some 1000 }
    ((run1 (.tripMemoryExpiry 1) s).zone? 1).map (·.run.trips) = some 0 := by decide +kernel

theorem test_loss_record_expiry :
    let s := start.modZone 1 fun x => { x with eval := { x.eval with lossRecord := some 1000 } }
    ((run1 (.lossRecordExpiry 1) s).zone? 1).map (·.eval.lossRecord) = some none := by decide +kernel

theorem test_grace_expiry :
    let s := (with1 .live .degraded 9).modRun 1 fun r => { r with graceDeadline := some 1000 }
    ((run1 (.graceExpiry 1) s).zone? 1).map (fun x => (x.run.state, x.run.reason)) = some (.tripped, some .blind)
      ∧ (run1 (.graceExpiry 1) s).lines.get 0 = true := by decide +kernel

theorem test_release_zone :
    let t := run1 (.releaseZone 7 [1]) ((with1 .live .tripped 27).modRun 1 fun r => { r with trips := 1 })
    (t.zone? 1).map (fun x => (x.run.state, x.run.trips, x.run.memoryDeadline, x.eval.evidence))
      = some (.normal, 1, some 3601000, 0) := by decide +kernel

theorem test_clear_lockout :
    let t := run1 (.clearLockout 7 [1]) ((with1 .live .lockout 27).modRun 1 fun r => { r with trips := 2 })
    (t.zone? 1).map (fun x => (x.run.state, x.run.trips, x.run.memoryDeadline)) = some (.normal, 0, none) := by
  decide +kernel

/-! ## Management -/

theorem test_identify :
    lastReply (run1 (.identify 7 []) quiet) = some (.done, [0x48, 0x03, 2, 48, 4, 16, 8, 4, 4, 0, 248]) := by decide +kernel

theorem test_read_status : ((lastReply (run1 (.readStatus 7 []) start)).map fun r => r.2.take 6)
    = some [1, 0, 1, 0, 5, 0] := by decide +kernel

theorem test_read_node : ((lastReply (run1 (.readNode 7 [1]) start)).map fun r => (r.1, r.2.length, r.2.take 4))
    = some (.done, 101, [1, 12, 2, 0]) := by decide +kernel

theorem test_read_zone : ((lastReply (run1 (.readZone 7 [5]) start)).map Prod.fst) = some .wrongState := by decide +kernel

theorem test_read_health : lastReply (run1 (.readHealth 7 [1])
    (start.setNode 1 { run .live with health := ⟨1, 2, 3, 256⟩ }))
    = some (.done, [1, 0, 1, 0, 2, 0, 3, 1, 0, 0, 0, 0, 0, 0, 0, 0, 0, 0]) := by decide +kernel

theorem test_read_counters : ((lastReply (run1 (.readCounters 7 [])
    (quiet.modCounters fun c => { c with discards := 258 }))).map fun r => (r.2.drop 40).take 4) = some [0, 0, 1, 2] := by
  decide +kernel

theorem test_clear_counters :
    (run1 (.clearCounters 7 []) (quiet.modCounters fun c => { c with discards := 258 })).counters = .zero := by decide +kernel

theorem test_load_header : lastReply (run1 (.loadHeader 7 (Header.default.encode.set 1 5)) quiet) = some (.badParam, []) := by
  decide +kernel

/-- Section 9.2: a TWIN at index 5, its zone part 0xFF, 0xFF, 0. -/
theorem test_load_node : (run1 (.loadNode 7 [5, 1, 16, 0, 2, 0xFF, 0xFF, 0, 0, 1, 0, 0xFF, 0xFF, 0]) quiet).staged.node? 5
    = some (unit 16 .twin none none) := by decide +kernel

theorem test_load_zone_profile :
    ((run1 (.loadZoneProfile 7 (15 :: { ZoneProfile.default with decay := 9 }.encode)) quiet).staged.zoneProfile 15).decay
      = 9 := by decide +kernel

theorem test_load_channel_profile :
    ((run1 (.loadChannelProfile 7 (7 :: { ChannelProfile.default with kl := 9 }.encode)) quiet).staged.channelProfile
      7).kl = 3 := by decide +kernel

theorem test_clear_staged : (run1 (.clearStaged 7 []) { quiet with staged := feeder0 }).staged = .empty := by decide +kernel

/-- R156: an absent record reads as present 0 and twelve bytes of 0xFF. -/
theorem test_read_table : lastReply (run1 (.readTable 7 [0, 1, 6]) start)
    = some (.done, [0, 1, 6, 0] ++ List.replicate 12 0xFF) := by decide +kernel

/-- R111, R162: the first ACTIVATE raises DEGRADED for the HEAD zone, then ABSORBED for the others. -/
theorem test_activate :
    let t := run1 (.activate 7 []) { quiet with staged := feeder0 }
    t.verdicts.map (fun v => (v.zone, v.kind)) = [(0, .degraded), (1, .absorbed), (2, .absorbed), (3, .absorbed),
      (4, .absorbed)] ∧ t.engine = .running ∧ t.feeders.get 3 = ⟨some 50, .standard, .standard⟩ := by decide +kernel

/-- 9.11: zone 2 is TRIPPED and its children change, so the ACTIVATE is refused with index 2 and reason 12. -/
theorem test_activate_refused :
    let staged := { feeder0 with nodes := feeder0.nodes.set 6 (some (unit 17 .node (some 2) none)) }
    let s := start.modRun 2 fun r => { r with state := .tripped, reason := some .evidence, trips := 1 }
    lastReply (run1 (.activate 7 []) { s with staged := staged }) = some (.refusedTripped, [2, 12]) := by decide +kernel

theorem test_set_mode : (run1 (.setMode 7 [3, 2]) start).feeders.get 3 = ⟨some 1000, .inhibited, .standard⟩ := by
  decide +kernel

theorem test_bad_command : lastReply (run1 (.badCommand 0x00 7 []) quiet) = some (.badCommand, []) := by decide +kernel

theorem test_restart : lastReply (run1 (.restartEngine 7 [1]) (with1 .live .tripped 27)) = some (.done, [2])
    ∧ (run1 (.restartEngine 7 [1]) (with1 .live .tripped 27)).replies.length = 2
    ∧ lastReply (run1 (.restartEngine 7 [0]) (with1 .live .tripped 27)) = some (.refusedTripped, []) := by decide +kernel

/-! ## Capture and proofs -/

/-- A capture record. -/
def sample (sequence : Byte) : CaptureRecord := ⟨12, sequence, 990, 0, .all ⟨0, 0, 0⟩⟩

/-- The engine with 70 records in the ring of feeder 0. -/
def recorded : State := { start with rings := ⟨List.replicate 70 (sample 1), [], [], []⟩ }

/-- A slot of feeder 0 with four records before its trigger and a target of five. -/
def slot (st : SlotState) (n : Nat) : Slot :=
  ⟨st, some 0, some .motion, some 1, some 995, 4, 5, List.replicate n (sample 2), 0⟩

/-- 8.9: the slot of a trigger copies the pre count, 64, and takes slot 0. -/
theorem test_capture_now :
    let t := run1 (.captureNow 7 [0]) recorded
    (t.slots.get 0).state = .filling ∧ (t.slots.get 0).preRecords = 64 ∧ (t.slots.get 0).postTarget = 256 := by
  decide +kernel

/-- 8.9: start 2 and count 7 of 7 records return 5. -/
theorem test_read_capture :
    ((lastReply (run1 (.readCapture 7 [0, 0, 2, 7]) { start with slots := (Four.all Slot.empty).set 0 (slot .filling 7) })).map
      fun r => (r.2.length, r.2.drop 9 |>.take 9)) = some (18 + 25 * 5, [4, 0, 7, 0, 5, 0, 0, 2, 5]) := by decide +kernel

theorem test_free_capture :
    let s := { start with slots := (Four.all Slot.empty).set 0 (slot .filling 7) }
    lastReply (run1 (.freeCapture 7 [0, 0]) s) = some (.wrongState, [])
      ∧ (run1 (.freeCapture 7 [0, 1]) s).slots.get 0 = .empty := by decide +kernel

/-- 8.9: the fifth record after the trigger freezes the slot. -/
theorem test_record_freezes :
    (({ start with slots := (Four.all Slot.empty).set 1 (slot .filling 8) }.pushRecord 0 (sample 3)).slots.get 1).state
      = .frozen := by decide +kernel

/-- R176: forcing OPEN on a zone with evidence 18 gives 26 and the result TRIPPED, TRIP; the zone keeps evidence 16. -/
theorem test_prove_zone :
    let t := run1 (.feederEvaluationExpiry 0) (run1 (.proveZone 9 [1, 1]) (with1 .live .normal 18))
    t.replies.map (fun r => (r.tag, r.status, r.data)) = [(9, .accepted, []), (9, .done, [8, 26, 2, 3])]
      ∧ (t.zone? 1).map (·.eval.evidence) = some 16 := by decide +kernel

/-- 11.5: a pulse on an UNUSED line asserts it, and its expiry releases it. -/
theorem test_prove_line :
    let s := run1 (.proveLine 9 [3, 0, 100]) start
    s.lines.get 3 = true ∧ s.proof.pulseDeadline = some 1100
      ∧ (run1 .pulseExpiry { s with now := 1100 }).lines.get 3 = false
      ∧ lastReply (run1 .pulseExpiry { s with now := 1100 }) = some (.done, []) := by decide +kernel

theorem test_cancel_proof :
    (run1 (.cancelProof 7 []) (run1 (.proveLine 9 [3, 0, 100]) start)).replies.map (fun r => (r.code, r.tag, r.status))
      = [(0x39, 9, .accepted), (0x3A, 7, .done), (0x39, 9, .cancelled)] := by decide +kernel

/-! ## Witnesses: a state and operands that meet the hypotheses of each statement, clause by clause

A statement whose only hypothesis is that a command can be taken has canTake_start and canTake_full as its witnesses. -/

/-- The engine with three replies waiting: the last place of the queue is free. -/
def nearFull : State := { start with replies := List.replicate 3 ⟨0x01, 0, .done, []⟩ }

/-- The engine with a full reply queue. -/
def full : State := { start with replies := List.replicate 4 ⟨0x01, 0, .done, []⟩ }

theorem canTake_nearFull : nearFull.CanTake := ⟨by decide +kernel, by decide +kernel⟩

/-- StepRunsTheFrontCommand: an empty queue. -/
theorem witness_step : State.reset.pending = [] := rfl

/-! ### Tables -/

theorem witness_load_header : Header.default.inRange = true ∧ Header.default.encode.length = 18
    ∧ { Header.default with periods := ⟨10, 500, 10, 500⟩, silenceLimit := 10000, preCount := 128, postCount := 384 }.inRange
      = true := by decide +kernel

theorem witness_load_header_refused : ∀ h : Header, h.inRange = true → h.encode ≠ [] := by
  intro h _ e
  have := congrArg List.length e
  simp [Header.encode, Four.toList] at this

theorem witness_load_profiles : (15#8).toNat < 16 ∧ 16 ≤ (16#8).toNat ∧ ZoneProfile.default.inRange = true
    ∧ (7#8).toNat < 8 ∧ 8 ≤ (8#8).toNat ∧ ChannelProfile.default.inRange = true := by decide +kernel

theorem witness_load_profiles_refused : (∀ p : ZoneProfile, p.inRange = true → p.encode ≠ [])
    ∧ ∀ p : ChannelProfile, p.inRange = true → p.encode ≠ [] := by
  refine ⟨fun p _ e => ?_, fun p _ e => ?_⟩ <;> have := congrArg List.length e <;>
    simp [ZoneProfile.encode, ChannelProfile.encode] at this

theorem witness_load_node : (47#8).toNat < 48 ∧ (unit 239 .node (some 47) (some 0)).inRange = true
    ∧ (List.replicate 12 (0xFF : Byte)).length = 12 ∧ 48 ≤ (48#8).toNat := by decide +kernel

theorem witness_load_node_refused : (∀ r : NodeRec, r.inRange = true → r.encode ≠ [0])
    ∧ ∀ rest : List Byte, [0] = (0 : Byte) :: rest → rest.length ≠ 12 := by
  refine ⟨fun r _ e => ?_, fun rest e => ?_⟩
  · have := congrArg List.length e
    simp [NodeRec.encode] at this
  · cases e; decide

theorem witness_records : (unit 1 .head none none).inRange = true ∧ (unit 239 .twin none none).inRange = true := by
  decide +kernel

theorem witness_read_table : (0 : Byte) = 0 ∧ start.active = feeder0 ∧ (1 : Byte) = 1 ∧ start.staged = Tables.empty
    ∧ (47#8).toNat < 48 ∧ (15#8).toNat = (15 : Fin 16).val ∧ (7#8).toNat = (7 : Fin 8).val ∧ 4 ≤ (4#8).toNat
    ∧ 48 ≤ (48#8).toNat ∧ 16 ≤ (16#8).toNat ∧ 8 ≤ (8#8).toNat ∧ 2 ≤ (2#8).toNat := by decide +kernel

/-! ### ACTIVATE -/

/-- The first ACTIVATE of the feeder of 1.11. -/
def loaded : State := { quiet with staged := feeder0 }

/-- The engine with zone 1 TRIPPED, and the same tables in both copies. -/
def tripped1 : State := { with1 .live .tripped 27 with staged := feeder0 }

/-- The engine with zone 1 TRIPPED, and a STAGED copy without it. -/
def dropping1 : State :=
  { with1 .live .tripped 27 with
    staged := { feeder0 with nodes := [some (unit 11 .head none none)] ++ List.replicate 47 none } }

theorem witness_activate_refused : quiet.staged.failure = some (0xFF, 2) ∧ dropping1.staged.failure = none
    ∧ dropping1.droppedTripped = some 1 := by decide +kernel

theorem canTake_dropping1 : dropping1.CanTake := ⟨by decide +kernel, by decide +kernel⟩

/-- The running engine with a STAGED copy in which node 1 has voltage sensing. -/
def resensed (n : NodeRun) : State :=
  { start.setNode 1 n with
    staged := { feeder0 with
      nodes := feeder0.nodes.set 1 (some { unit 12 .node (some 0) none with voltageSensing := true }) } }

/-- The engine with zone 1 TRIPPED, and a STAGED copy with a node more, below node 4. -/
def grown : State :=
  { with1 .live .tripped 27 with
    staged := { feeder0 with nodes := feeder0.nodes.set 6 (some (unit 17 .node (some 4) none)) } }

theorem canTake_resensed : (resensed (run .live)).CanTake ∧ (resensed (run .barred)).CanTake ∧ grown.CanTake :=
  ⟨⟨by decide +kernel, by decide +kernel⟩, ⟨by decide +kernel, by decide +kernel⟩, ⟨by decide +kernel, by decide +kernel⟩⟩

/-- R39: a changed voltage sensing takes a kept LIVE node to EXPECTED, and leaves a BARRED one so. -/
theorem witness_kept_nodes : (resensed (run .live)).staged.failure = none ∧ (resensed (run .live)).droppedTripped = none
    ∧ (resensed (run .barred)).droppedTripped = none
    ∧ ((run1 (.activate 7 []) (resensed (run .live))).node? 1).map (·.state) = some .expected
    ∧ ((run1 (.activate 7 []) (resensed (run .barred))).node? 1).map (·.state) = some .barred
    ∧ (∀ i : Fin 6, (feeder0.node? i.val).map (·.address) = some 12 → i = 1) := by decide +kernel

/-- R103, R110: zone 1 is kept with its trip, zone 4 is not and zone 6 is new; an unsent entry of zone 1 stays. -/
theorem witness_carried : grown.staged.failure = none ∧ grown.droppedTripped = none
    ∧ keptTo grown.active grown.staged 1 = some 1 ∧ keptTo grown.active grown.staged 4 = none
    ∧ (grown.staged.position? 6).isSome = true ∧ keptZone grown.active grown.staged 6 = none
    ∧ ((run1 (.activate 7 []) grown).zone? 1).map (fun x => (x.run.state, x.eval.evidence)) = some (.tripped, 27)
    ∧ ((run1 (.activate 7 []) grown).zone? 6).map (·.run.state) = some .absorbed
    ∧ ((run1 (.activate 7 []) (grown.raise 1 .advisory)).verdicts.head?).map (fun v => (v.zone, v.kind))
      = some (1, .advisory) := by decide +kernel

theorem witness_activate : (loaded.proof.state = .none ∧ loaded.staged.failure = none ∧ loaded.droppedTripped = none
      ∧ loaded.engine = .unconfigured)
    ∧ tripped1.proof.state = .none ∧ tripped1.staged.failure = none ∧ tripped1.droppedTripped = none
      ∧ tripped1.engine = .running := by decide +kernel

/-- Two lists of 48 records agree everywhere when they agree at each index. -/
theorem agree {α β : Type} {xs : List (Option α)} {ys : List (Option β)} {p : β → Bool} (hx : xs.length = 48) (hy : ys.length = 48)
    (h : ∀ i : Fin 48, ((xs[i.val]?).join).isSome = (((ys[i.val]?).join).filter p).isSome) (i : Nat) :
    ((xs[i]?).join).isSome = (((ys[i]?).join).filter p).isSome := by
  by_cases hi : i < 48
  · exact h ⟨i, hi⟩
  · rw [List.getElem?_eq_none (by omega), List.getElem?_eq_none (by omega)]; rfl

theorem witness_records_match : tripped1.RecordsMatch where
  nodesLength := by decide +kernel
  zonesLength := by decide +kernel
  nodes := fun i => by
    have := agree (p := fun _ => true) (xs := tripped1.nodes) (ys := tripped1.active.nodes) (by decide +kernel)
      (by decide +kernel) (by decide +kernel) i
    simpa [State.node?, Tables.node?] using this
  zones := agree (p := NodeRec.isPosition) (xs := tripped1.zones) (ys := tripped1.active.nodes) (by decide +kernel)
    (by decide +kernel) (by decide +kernel)

theorem witness_activate_keeps : (tripped1.zone? 1).map Zone.isTripped = some true ∧ tripped1.staged.failure = none
    ∧ tripped1.droppedTripped = none := by decide +kernel

theorem grown_records : grown.RecordsMatch :=
  ⟨witness_records_match.nodesLength, witness_records_match.zonesLength, witness_records_match.nodes,
    witness_records_match.zones⟩

theorem witness_validated : feeder0.failure = none ∧ (feeder0.node? 1).map (·.role) = some .node
    ∧ (feeder0.position? 3).map (·.twin) = some (some 5) ∧ (feeder0.node? 5).map (·.role) = some .twin := by decide +kernel

/-- FirstFailure: a copy without records has no HEAD, and no address twice. -/
theorem witness_first_failure : FirstFailure Tables.empty 2 0xFF := by
  have absent : ∀ i, Tables.empty.node? i = none := fun i => by
    by_cases hi : i < 48
    · have h : ∀ k : Fin 48, Tables.empty.node? k.val = none := by decide +kernel
      exact h ⟨i, hi⟩
    · exact congrArg Option.join (List.getElem?_eq_none (show Tables.empty.nodes.length ≤ i by
        have : Tables.empty.nodes.length = 48 := by decide +kernel
        omega))
  refine ⟨.noHead fun i r h => ?_, fun i h => ?_, fun c i hc h => ?_⟩
  · rw [absent] at h; cases h
  · cases h; exact Nat.le_refl _
  · cases h <;> first | omega | (rename_i h _ _ _; rw [absent] at h; cases h)

/-- The feeder of 1.11 with another record at an index. -/
def altered (i : Nat) (r : NodeRec) : Tables := { feeder0 with nodes := feeder0.nodes.set i (some r) }

/-- R157: index and reason of one copy for each check, in the order of its table. -/
theorem test_validation :
    (altered 2 (unit 12 .node (some 0) none)).failure = some (2, 1)
    ∧ Tables.empty.failure = some (0xFF, 2)
    ∧ (altered 6 (unit 17 .head none none)).failure = some (6, 3)
    ∧ (altered 6 (unit 17 .node (some 5) none)).failure = some (6, 4)
    ∧ (altered 6 { unit 17 .node (some 0) none with feeder := 1 }).failure = some (6, 5)
    ∧ (altered 6 (unit 17 .node (some 6) none)).failure = some (6, 6)
    ∧ (altered 2 (unit 13 .node (some 0) (some 4))).failure = some (2, 9)
    ∧ (altered 6 (unit 17 .twin none none)).failure = some (6, 10)
    ∧ { feeder0 with zoneProfiles := feeder0.zoneProfiles.set 3 { ZoneProfile.default with tSuspect := 25 } }.failure
      = some (51, 11)
    ∧ { feeder0 with channelProfiles := feeder0.channelProfiles.set 7 { ChannelProfile.default with kf := 6 } }.failure
      = some (71, 11) := by decide +kernel

/-- R157, checks 7 and 8: a chain of 17 positions, and a HEAD with five NODEs below it. -/
theorem test_validation_shape :
    let chain := (List.range 17).map fun i =>
      some (unit (byteOf (i + 1)) (if i = 0 then .head else .node) (if i = 0 then none else some (i - 1)) none)
    let star := (List.range 6).map fun i =>
      some (unit (byteOf (i + 1)) (if i = 0 then .head else .node) (if i = 0 then none else some 0) none)
    { Tables.empty with nodes := chain ++ List.replicate 31 none }.failure = some (16, 7)
      ∧ { Tables.empty with nodes := star ++ List.replicate 42 none }.failure = some (0, 8) := by decide +kernel

/-! ### Receiving -/

theorem witness_frame_bytes : (List.replicate 200 (0 : Byte)).length ≤ 200 := by decide +kernel

/-- Bytes without 0x3A hold no sync pair. -/
theorem no_pair {l : List Byte} (h : 0x3A ∉ l) (a b : List Byte) : l ≠ a ++ 0xC5 :: 0x3A :: b := by
  rintro rfl
  simp at h

/-- HuntEndsAtTheSyncPair: a candidate and a 0xC5 among the noise before the pair, and streams without a pair that end in
0xC5 and in another byte. -/
theorem witness_hunt : State.reset.rx .sensor = .hunting false false
    ∧ (quiet.setRx .controller (.hunting true true)).rx .controller = .hunting true true
    ∧ ([0xC5] : List Byte) ++ [0x47, 0xC5, 0x3A] = [0xC5, 0x47] ++ [0xC5, 0x3A]
    ∧ (0x3A : Byte) ∉ ([0xC5, 0x47] ++ [0xC5] : List Byte) ∧ ([0xC5] : List Byte) ++ [0x3A] = [] ++ [0xC5, 0x3A]
    ∧ ([0xC5] : List Byte) ++ [0xC5] = [0xC5] ++ [0xC5] ∧ (0x3A : Byte) ∉ ([0xC5] ++ [0xC5] : List Byte)
    ∧ (([0xC5] : List Byte) ++ [0x47]).getLast? ≠ some 0xC5 ∧ (0x3A : Byte) ∉ ([0xC5] ++ [0x47] : List Byte) := by
  decide +kernel

/-- The engine with a receiver at the start of a frame. -/
def inFrame (p : Port) : State := start.setRx p (.collecting [])

theorem inFrame_inFrame (p : Port) : (inFrame p).InFrame p := State.rx_setRx_same _ _ _

/-- A frame completed after bytes collected before: the receiver holds its first three. -/
theorem witness_split (p : Port) (f : Frame) :
    (start.setRx p (.collecting ((f.bytes.drop 2).take 3))).rx p = .collecting ((f.bytes.drop 2).take 3)
      ∧ (f.bytes.drop 2).take 3 ++ (f.bytes.drop 2).drop 3 = f.bytes.drop 2 :=
  ⟨State.rx_setRx_same _ _ _, List.take_append_drop 3 _⟩

theorem witness_length_error : 200 < (201#8).toNat ∧ ([0x11] : List Byte) ++ [0x07, 0x2C, 201] = [0x11, 0x07, 0x2C, 201]
    ∧ ¬((0x11 : Byte) = 0xC5 ∧ (0x07 : Byte) = 0x3A) ∧ ¬((0x07 : Byte) = 0xC5 ∧ (0x2C : Byte) = 0x3A)
    ∧ ([0xC5, 0x3A] : List Byte) ++ [0x2C, 201] = [0xC5, 0x3A, 0x2C, 201]
    ∧ ([] : List Byte) ++ [0x11, 0xC5, 0x3A, 201] = [0x11, 0xC5, 0x3A, 201] := by
  decide

theorem witness_bad_frames :
    ({ frame 0x33 1 0 [] with crc := 0 }.crcOk = false)
    ∧ ((frame 0x10 12 0 (List.replicate 18 0)).crcOk = true ∧ exactSize (frame 0x10 12 0 (List.replicate 18 0)).kind = some 19
      ∧ (frame 0x10 12 0 (List.replicate 18 0)).payload.length ≠ 19)
    ∧ ((frame 0x40 248 0 [1]).crcOk = true ∧ (frame 0x40 248 0 [1]).address = (inFrame .controller).address
      ∧ (frame 0x40 248 0 [1]).payload.length < 2) := by decide +kernel

theorem witness_accepted :
    ((frame 0x42 12 0 [1]).crcOk = true ∧ exactSize (frame 0x42 12 0 [1]).kind = none ∧ (inFrame .sensor).canFlush = false
      ∧ (inFrame .sensor).forwardFifo.length < 64
      ∧ 64 ≤ { inFrame .sensor with forwardFifo := List.replicate 64 (frame 0x42 12 0 [1]) }.forwardFifo.length)
    ∧ ((frame 0x11 12 0 [1, 2]).crcOk = true
      ∧ exactSize (frame 0x11 12 0 [1, 2]).kind = some (frame 0x11 12 0 [1, 2]).payload.length)
    ∧ ((frame 0x40 248 0 [1, 2]).crcOk = true ∧ exactSize (frame 0x40 248 0 [1, 2]).kind = none
      ∧ ¬((frame 0x40 248 0 [1, 2]).payload.length < 2)) := by decide +kernel

/-! ### Nodes -/

/-- The feeder of 1.11 with node 1 without auto-return. -/
def noReturn : State :=
  { with1 .silent .absorbed 0 with
    active := { feeder0 with nodes := feeder0.nodes.set 1 (some { unit 12 .node (some 0) none with autoReturn := false }) } }

theorem witness_node1 : feeder0.find? 12 = some 1 ∧ feeder0.node? 1 = some (unit 12 .node (some 0) none)
    ∧ (with1 .expected .absorbed 0).node? 1 = some (run .expected) ∧ (with1 .warming .absorbed 0).node? 1 = some (run .warming)
    ∧ (with1 .silent .absorbed 0).node? 1 = some (run .silent) ∧ (with1 .barred .absorbed 0).node? 1 = some (run .barred)
    ∧ start.node? 1 = some (run .live) ∧ noReturn.active.find? 12 = some 1
    ∧ noReturn.active.node? 1 = some { unit 12 .node (some 0) none with autoReturn := false }
    ∧ noReturn.node? 1 = some (run .silent) := by decide +kernel

theorem witness_ident : (unit 12 .node (some 0) none).voltageSensing = false
    ∧ ((7#8).getLsbD 0 = true ∧ (7#8).getLsbD 1 = true ∧ (7#8).getLsbD 2 = true) ∧ (3#8).getLsbD 2 = false
    ∧ (frame 0x12 12 0 [4, 0, 7]).payload = [4, 0, 7] ∧ start.proof.state = .none
    ∧ (unit 12 .node (some 0) none).autoReturn = true := by decide +kernel

theorem witness_cycle : (run .live).seqExpect = some 5 ∧ (unit 12 .node (some 0) none).autoBar = false
    ∧ ((5 : Byte) + 127 - 5).toNat = 127 ∧ ((5 : Byte) + 128 - 5).toNat = 128 := by decide

/-- Auto-bar at a reached threshold, LIVE and WARMING, and the first frame of a warm-up. -/
theorem witness_auto_bar : (watched (run .live)).active.find? 12 = some 1
    ∧ ((watched (run .live)).active.node? 1).map (·.autoBar) = some true
    ∧ ((watched (run .live)).active.profileOf (unit 12 .node (some 0) none)).thresholds.gaps = 3
    ∧ ((watched (run .live)).active.profileOf (unit 12 .node (some 0) none)).thresholds.stales = 1
    ∧ (watched (run .warming)).node? 1 = some (run .warming) ∧ ((8 : Byte) - 5).toNat = 3 ∧ ((4 : Byte) - 5).toNat = 255
    ∧ { run .warming with seqExpect := none }.seqExpect = none := by decide +kernel

theorem witness_ignored : start.active.find? 99 = none ∧ (run .expected).state = .expected
    ∧ (run .barred).state = .barred ∧ (run .silent).state = .silent := by decide +kernel

theorem witness_warm_up : (run .warming).seqExpect = some (frame 0x10 12 5 (steady 1000 7000 100)).sequence
    ∧ countPhases (cycleFlags (steady 1000 7000 100)) = 0
    ∧ (start.active.profileOf (unit 12 .node (some 0) none)).warmUpCount ≤ 127 + 1
    ∧ 126 + 1 < (start.active.profileOf (unit 12 .node (some 0) none)).warmUpCount ∧ 127 < 1024 := by decide +kernel

theorem witness_motion : (frame 0x11 12 0 [1, 5]).payload = [1, 5] ∧ anyPhase 5 = true ∧ anyPhase 0 = false
    ∧ (2 : Byte) ≠ 1 := by decide +kernel

theorem witness_silence : due start.now (run .live).silenceDeadline = true
    ∧ due (with1 .warming .absorbed 0).now (run .warming).silenceDeadline = true
    ∧ (with1 .warming .absorbed 0).canFlush = false ∧ start.proof.state = .none
    ∧ due { start with now := 999 }.now (run .live).silenceDeadline = false := by decide +kernel

/-! ### Channels and topology -/

theorem witness_seeding : Channel.fresh.seeded = false := rfl

theorem witness_ordinary : { Channel.fresh with seeded := true }.seeded = true
    ∧ ({ Channel.fresh with seeded := true, arcFlag := true, arcRun := 7, score := 300 }.arcFlag = true
      ∧ ChannelProfile.default.sOff ≤ 300 ∧ 299 < ChannelProfile.default.sOff
      ∧ 6 + 1 < ChannelProfile.default.arcReleaseCount ∧ ChannelProfile.default.arcReleaseCount ≤ 7 + 1) := by decide

theorem witness_channel_range : Channel.fresh.InBounds ∧ ChannelProfile.default.inRange = true
    ∧ dropRatio 0 { Channel.fresh with iSlow16 := 1 } = 1000 := by
  refine ⟨?_, by decide, by decide⟩
  constructor <;> decide

theorem witness_boundary_source : start.isLive 3 = true ∧ (with1 .silent .absorbed 0).isLive 1 = false
    ∧ feeder0.twinOf 1 = none ∧ feeder0.twinOf 3 = some 5 ∧ (start.setNode 3 (run .silent)).isLive 3 = false
    ∧ (start.setNode 3 (run .silent)).isLive 5 = true := by decide +kernel

/-- TopologyRecordOfAZone: a validated copy; zones with a source, the HEAD without one, and NODEs below a live and below an
excluded position, whose host is the HEAD. -/
theorem witness_topology : feeder0.inRange = true ∧ feeder0.failure = none
    ∧ (feeder0.position? 0).map (·.role) = some .head ∧ (feeder0.position? 3).map (·.parent) = some (some 1)
    ∧ boundarySource feeder0 (fun _ => false) 0 = none ∧ boundarySource feeder0 (· == 5) 3 = some (5, true)
    ∧ (topologyOf feeder0 (fun _ => false) 3).host = some 0 ∧ (topologyOf feeder0 (· == 1) 3).host = some 1
    ∧ (topologyOf feeder0 (· == 0) 0).absorbed = [1, 2, 3, 4]
    ∧ (topologyOf feeder0 (fun i => i == 0 || i == 5) 0).list = [⟨3, 5, true⟩] := by decide +kernel

/-- RecomputationReplacesMarksAndHandsOff: with node 1 SILENT the sources of zones 0 and 1 differ and those of zone 2 stand;
only zone 1 is handed off. -/
theorem witness_recomputation : let s := start.setNode 1 (run .silent)
    s.active.zonesOf 0 = [0, 1, 2, 3, 4] ∧ s.handOffs 0 = [(1, .absorbed)]
    ∧ (s.zone? 0).map (fun x => (x.topo.sources, (s.newTopology 0).sources)) = some ([1, 2], [2, 3, 4])
    ∧ (s.zone? 1).map (fun x => (x.topo.source, (s.newTopology 1).source)) = some (some 1, none)
    ∧ (s.zone? 2).map (fun x => x.topo) = some (s.newTopology 2) := by decide +kernel

theorem witness_hand_off : start.active.position? 1 = some (unit 12 .node (some 0) none)
    ∧ ((with1 .live .lockout 9).zone? 1).map Zone.isTripped = some true
    ∧ ((with1 .live .suspect 9).zone? 1).map (·.run.state) = some .suspect
    ∧ ((with1 .live .absorbed 0).zone? 1).map (·.run.state) = some .absorbed
    ∧ ((with1 .live .degraded 8).zone? 1).map (·.run.state) = some .degraded
    ∧ degradeReason .headLost = some .headLost ∧ degradeReason .boundaryOverflow = some .boundaryOverflow := by decide +kernel

/-- A hand-off with a proof of the zone pending, and a restore below and at T_suspect. -/
theorem witness_hand_off_proof : ({ start with proof := zoneProof 1 .none 9 }.proof.state = .zonePending
      ∧ { start with proof := zoneProof 1 .none 9 }.proof.target = some 1
      ∧ { start with proof := zoneProof 1 .none 9 }.proof.kind = some .proveZone
      ∧ { start with proof := zoneProof 1 .none 9 }.proof.tag = some 9)
    ∧ ((with1 .live .degraded 8).profile 1).tSuspect ≤ 8 ∧ 7 < ((with1 .live .degraded 7).profile 1).tSuspect
    ∧ ((start.handOff 1 .headLost).slots.get 0).state = .free
    ∧ (((with1 .live .degraded 8).handOff 1 .evaluable).slots.get 0).kind = some .suspect := by decide +kernel

/-! ### The feeder evaluation -/

theorem witness_feeder_expiry : due start.now (start.feeders.get 0).deadline = true ∧ start.proof.state = .none
    ∧ (1 : Nat) ∈ start.active.zonesOf 0 ∧ (1 : Nat) ∉ start.active.zonesOf 1
    ∧ (start.zone? 1).map Zone.selected = some true ∧ ((with1 .live .tripped 9).zone? 1).map Zone.selected = some false
    ∧ (start.zone? 1).map (·.topo.source) = some (some 1)
    ∧ due { start with now := 999 }.now (start.feeders.get 0).deadline = false := by decide +kernel

/-- A zone that confirms at the expiry, in the mode it latches. -/
theorem witness_expiry_confirm : let s := with1 .live .suspect 26
    (s.feeders.get 0).requested = .heightened ∧ due s.now (s.feeders.get 0).deadline = true ∧ s.canFlush = false
      ∧ s.proof.state ≠ .zonePending ∧ (s.zone? 1).map Zone.selected = some true
      ∧ (run1 (.feederEvaluationExpiry 0) s).verdicts.map (fun v => (v.zone, v.kind, v.evidence)) = [(1, .trip, 24)] := by
  decide +kernel

/-- The evidence of zone 1 after an evaluation that finds nothing. -/
def evidenceAfter (st : ZoneState) (evidence : Nat) : Option Nat :=
  let s := with1 .live st evidence
  (s.zone? 1).map fun x => (x.eval.evaluate (s.profile 1) x.run.state s.now (s.inputs x 1)).evidence

theorem witness_decision : ((with1 .live .normal 26).zone? 1).map Zone.selected = some true
    ∧ ((with1 .live .suspect 26).zone? 1).map Zone.selected = some true
    ∧ evidenceAfter .normal 26 = some 24 ∧ evidenceAfter .suspect 26 = some 24 ∧ ((with1 .live .normal 26).profile 1).tConfirm = 24
    ∧ evidenceAfter .normal 25 = some 23 ∧ evidenceAfter .normal 10 = some 8 ∧ ((with1 .live .normal 10).profile 1).tSuspect = 8
    ∧ evidenceAfter .normal 9 = some 7 ∧ evidenceAfter .suspect 3 = some 1 ∧ evidenceAfter .suspect 2 = some 0 := by
  decide +kernel

theorem witness_modes : (start.feeders.get 0).effective ≠ .inhibited
    ∧ ({ start with feeders := start.feeders.set 0 ⟨none, .standard, .inhibited⟩ }.feeders.get 0).effective = .inhibited
    ∧ (unit 12 .node (some 0) none).namesLine 0 = true ∧ start.active.header.policies.get 0 = .direct := by decide +kernel

/-- A confirm with a proof of the zone pending is told to it, and takes the TRIP trigger. -/
theorem witness_confirm_proof :
    let s := { with1 .live .normal 26 with proof := zoneProof 1 .none 9 }
    s.proof.state = .zonePending ∧ s.proof.target = some 1 ∧ s.proof.kind = some .proveZone ∧ s.proof.tag = some 9
      ∧ (s.evaluateZone 1).proof.held = some ⟨0x38, 9, .abandoned, []⟩
      ∧ ((s.evaluateZone 1).slots.get 0).kind = some .trip := by decide +kernel

/-- No zone proof is pending and no held reply can join the queue: at rest, and under a line pulse. -/
theorem witness_no_zone_proof : start.proof.state ≠ .zonePending ∧ start.canFlush = false
    ∧ (run1 (.proveLine 9 [3, 0, 100]) start).proof.state ≠ .zonePending
    ∧ (run1 (.proveLine 9 [3, 0, 100]) start).canFlush = false ∧ tripped1.proof.state ≠ .zonePending := by decide +kernel

theorem witness_phases : upstreamLive .default ⟨false, 50, .all .fresh⟩ .a = false
    ∧ upstreamLive .default ⟨true, 50, .all { Channel.fresh with vLast := 3000 }⟩ .a = true
    ∧ (Evaluation.fresh.perPhase.get .a).reseed = true := by decide

/-- A unit whose phase A carries 6.2 A after a drop from 22.1 A or more, B and C steady; with Vlast on every phase. -/
def dropped (sensing : Bool) (slowA vLast : Nat) : UnitView :=
  let c := { Channel.fresh with iFast16 := 3200, iSlow16 := 3200, vLast := vLast }
  ⟨sensing, 50, ⟨{ c with iFast16 := 992, iSlow16 := slowA }, c, c⟩⟩

/-- The phase score and the indications of phase A of a fresh NORMAL zone. -/
def found (up : UnitView) (down : List UnitView) (motion lost : Bool) : Indications :=
  ((Evaluation.fresh.evaluate .default .normal 1000 ⟨up, down, .all motion, lost⟩).perPhase.get .a).indications

/-- IndicationsFollowTheirTests: the three forms of OPEN on a live phase (R69 to R71), each found and not found, MOTION and
LOST beside them; 4.15, case 2: D is 720. -/
theorem witness_indications : upstreamLive .default (dropped false 3543 0) .a = true
    ∧ upstreamLive .default (dropped true 3200 7200) .a = true
    ∧ dropRatio 50 ((dropped false 3543 0).channels.get .a) = 720
    ∧ found (dropped false 3543 0) [] false false = ⟨true, false, false, false, false⟩
    ∧ found (dropped false 3200 0) [] true false = ⟨false, false, false, true, false⟩
    ∧ found (dropped true 3200 7200) [dropped true 3200 3100] false false = ⟨true, false, false, false, false⟩
    ∧ found (dropped true 3200 7200) [dropped true 3200 7100, dropped false 3543 0] false false = .none
    ∧ found (dropped false 3200 0) [dropped false 3200 0, dropped false 3543 0] false false = ⟨true, false, false, false, false⟩
    ∧ found (dropped false 3543 0) [dropped false 3200 0] false true = ⟨false, false, false, false, true⟩ := by
  decide +kernel

/-- The second part of IndicationsFollowTheirTests: zone 1 and its source, node 1, with a boundary unit. -/
theorem witness_inputs : start.active.node? 1 = some (unit 12 .node (some 0) none) ∧ start.node? 1 = some (run .live)
    ∧ (start.zone? 1).map (fun x => x.topo.list[0]?) = some (some ⟨3, 3, false⟩)
    ∧ start.active.node? 3 = some (unit 14 .node (some 1) (some 5)) ∧ start.node? 3 = some (run .live) := by decide +kernel

/-! ### Timers, verdicts, lines, transmission -/

theorem witness_timers : due start.now (some 1000) = true ∧ due start.now (some 1001) = false ∧ due start.now none = false
    ∧ (start.zone? 1).isSome = true ∧ start.active.position? 1 = some (unit 12 .node (some 0) none)
    ∧ ((with1 .live .suspect 9).zone? 1).map (·.run.state) = some .suspect
    ∧ ((with1 .live .degraded 9).zone? 1).map (·.run.state) = some .degraded
    ∧ (run .silent).motionHold.get .a = none := by decide +kernel

theorem witness_raise : (∀ e ∈ start.verdicts, e.zone ≠ 1)
    ∧ ∃ e, (start.raise 1 .advisory).verdicts = [] ++ e :: [] ∧ e.zone = 1 := by
  refine ⟨by decide +kernel, verdictEntry 1000 1 (unit 12 .node (some 0) none)
    (zone .normal 0 (own 1 [⟨3, 3, false⟩, ⟨4, 4, false⟩])) .advisory, by rfl, rfl⟩

theorem witness_line : ∃ z r x part, tripped1.active.position? z = some r ∧ tripped1.zone? z = some x
    ∧ (x.run.state = .tripped ∨ x.run.state = .lockout) ∧ r.zonePart = some part ∧ part.tripMask.getLsbD 0 = true :=
  ⟨1, unit 12 .node (some 0) none, zone .tripped 27 (own 1 [⟨3, 3, false⟩, ⟨4, 4, false⟩]), ⟨0, 1, 1⟩, by decide +kernel⟩

theorem witness_presence : { start with awaitingPresence := [1000] }.awaitingPresence = 1000 :: [] ∧ start.awaitingPresence = []
    ∧ due { start with presenceDeadline := some 1000 }.now (some 1000) = true ∧ due start.now start.presenceDeadline = false := by
  decide +kernel

theorem witness_presence_order : activating.awaitingPresence = 1000 :: []
    ∧ ∃ t u v w, exec .presenceUpdate activating = .next t ∧ exec .controllerFrameRouting t = .next u
      ∧ exec .controllerFrameRouting activating = .next v ∧ exec .presenceUpdate v = .next w :=
  ⟨rfl, _, run1 .controllerFrameRouting (run1 .presenceUpdate activating), run1 .controllerFrameRouting activating, _, rfl,
    rfl, rfl, rfl⟩

theorem witness_present : { start with awaitingPresence := [1000], presence := .present }.presence = .present
    ∧ start.presence = .absent := by decide +kernel

theorem witness_transmission : start.controllerTx = none ∧ { start with controllerTx := some [] }.controllerTx ≠ none
    ∧ (start.raise 1 .advisory).verdicts.length = 1 ∧ State.reset.verdicts = [] ∧ State.reset.replies = [startedNotice 1]
    ∧ State.reset.proof.state ≠ .completionWaiting
    ∧ (full.completeProof .done []).proof.state = .completionWaiting ∧ full.verdicts = [] ∧ full.replies.length = 3 + 1
    ∧ (full.completeProof .done []).proof.held.isSome = true ∧ start.replies = [] ∧ start.forwardFifo = []
    ∧ start.sensorTx = none ∧ start.sensorQueue = [] := by decide +kernel

theorem witness_routing : (frame 0x40 248 0 [1, 7]).address = 248 + start.strap.setWidth 8
    ∧ (frame 0x40 248 0 [1, 7]).payload = (1 : Byte) :: 7 :: [] ∧ (frame 0x33 248 0 []).kind ≠ 0x40
    ∧ (frame 0x40 249 0 [1, 7]).address ≠ 248 + start.strap.setWidth 8 ∧ start.sensorQueue.length < 16
    ∧ 16 ≤ { start with sensorQueue := List.replicate 16 (frame 0x33 248 0 []) }.sensorQueue.length
    ∧ start.awaitingRouting = [] := by decide +kernel

/-! ### Management -/

theorem witness_full : 4 ≤ full.replies.length := by decide +kernel

theorem witness_refusals : (0x00 : Byte) ∉ commandCodes ∧ quiet.engine = .unconfigured ∧ start.engine = .running
    ∧ ([] : List Byte).length ≠ 1 ∧ ([0] : List Byte).length ≠ 0 ∧ 48 ≤ (48#8).toNat ∧ (47#8).toNat < 48
    ∧ start.active.node? 47 = none ∧ start.active.position? 5 = none ∧ (start.active.node? 5).isSome = true := by
  decide +kernel

/-- A wrong size in either engine state; a slot, count or feeder out of range; PROVE ZONE and PROVE LINE at their limits. -/
theorem witness_out_of_range : (0x39, 3) ∈ ([(0x39, 3)] : List (Byte × Nat)) ∧ ([0, 0] : List Byte).length ≠ 3
    ∧ lastReply (run1 (.proveLine 7 [0, 0]) quiet) = some (.badParam, [])
    ∧ lastReply (run1 (.readCapture 7 [3, 0, 0, 8]) start) = some (.badParam, [])
    ∧ lastReply (run1 (.freeCapture 7 [4, 0]) start) = some (.badParam, [])
    ∧ lastReply (run1 (.captureNow 7 [4]) start) = some (.badParam, [])
    ∧ lastReply (run1 (.proveZone 7 [1, 32]) start) = some (.badParam, [])
    ∧ lastReply (run1 (.proveZone 7 [5, 0]) start) = some (.wrongState, [])
    ∧ lastReply (run1 (.proveLine 7 [3, 7, 209]) start) = some (.badParam, [])
    ∧ lastReply (run1 (.proveLine 7 [3, 0, 9]) start) = some (.badParam, []) := by decide +kernel

theorem witness_readings : start.engine = .running ∧ start.active.node? 1 = some (unit 12 .node (some 0) none)
    ∧ start.node? 1 = some (run .live) ∧ start.active.position? 1 = some (unit 12 .node (some 0) none)
    ∧ (start.zone? 1).isSome = true ∧ (3#8).toNat = (3 : Fin 4).val ∧ (7#8).toNat ≤ 7 ∧ start.missed ≤ 65535 := by
  decide +kernel

theorem witness_node_commands : noReturn.engine = .running ∧ (with1 .barred .absorbed 0).engine = .running
    ∧ (with1 .silent .absorbed 0).node? 1 = some (run .silent) ∧ start.proof.state = .none := by decide +kernel

theorem witness_set_mode : (3#8).toNat = (3 : Fin 4).val ∧ 2 < (3#8).toNat ∧ 4 ≤ (4#8).toNat := by decide

theorem canTake_tripped1 : tripped1.CanTake := ⟨by decide +kernel, by decide +kernel⟩

theorem witness_release : tripped1.proof.state = .none ∧ tripped1.engine = .running ∧ (1#8).toNat = 1
    ∧ tripped1.active.position? 1 = some (unit 12 .node (some 0) none)
    ∧ (tripped1.zone? 1).map (·.run.state) = some .tripped
    ∧ ((with1 .live .lockout 27).zone? 1).map (·.run.state) = some .lockout
    ∧ (start.zone? 1).map (·.run.state) = some .normal := by decide +kernel

theorem witness_restart : tripped1.anyTripped = true ∧ start.anyTripped = false ∧ 1 < (2#8).toNat
    ∧ (1 : Nat) ∈ tripped1.active.indices := by decide +kernel

/-- The HEAD zone of a used feeder and a NODE zone; and, in tables that no ACTIVATE takes, a zone of an unused feeder. -/
theorem witness_restart_zones : (start.active.position? 0).map (·.role) = some .head ∧ start.active.feederUsed 0 = true
    ∧ (start.active.position? 1).map (·.role) = some .node
    ∧ ({ feeder0 with nodes := feeder0.nodes.set 0 none }.position? 1).isSome = true
    ∧ { feeder0 with nodes := feeder0.nodes.set 0 none }.feederUsed 0 = false
    ∧ (run1 (.restartEngine 7 [1]) start).verdicts.map (fun v => (v.zone, v.kind)) = [(0, .degraded), (1, .absorbed),
      (2, .absorbed), (3, .absorbed), (4, .absorbed)] := by decide +kernel

/-! ### Capture -/

/-- The engine with slot 1 FILLING for feeder 0, slot 2 FROZEN and the others FREE. -/
def filling1 : State := { recorded with slots := ⟨.empty, slot .filling 8, slot .frozen 9, .empty⟩ }

/-- The engine with every slot FROZEN. -/
def allFrozen : State := { start with slots := .all (slot .frozen 9) }

theorem witness_trigger : ((filling1.slots.get 1).state = .filling ∧ (filling1.slots.get 1).feeder = some 0)
    ∧ (∀ j, (filling1.slots.get j).state = .filling → (filling1.slots.get j).feeder = some 0 → j = 1)
    ∧ (∀ j, (filling1.slots.get j).state = .filling → (filling1.slots.get j).feeder ≠ some 1)
    ∧ (filling1.slots.get 0).state = .free ∧ (∀ j, j < 0 → (filling1.slots.get j).state ≠ .free)
    ∧ (∀ j, (allFrozen.slots.get j).state ≠ .free)
    ∧ (∀ j, (allFrozen.slots.get j).state = .filling → (allFrozen.slots.get j).feeder ≠ some 0) := by decide +kernel

/-- The conditions on a taken slot, as one question that a concrete slot answers. -/
def takenWhole (x : Slot) : Prop :=
  x.state ≠ .free ∧ x.feeder.isSome = true ∧ (x.preRecords ≤ 128 ∧ 1 ≤ x.postTarget ∧ x.postTarget ≤ 384)
    ∧ x.preRecords ≤ x.records.length ∧ x.further ≤ 255
    ∧ if x.state = .filling then x.records.length < x.preRecords + x.postTarget
      else x.records.length = x.preRecords + x.postTarget

theorem takenWhole_whole {x : Slot} (h : takenWhole x) : x.Whole := by
  obtain ⟨taken, feeder, sizes, parts, further, total⟩ := h
  refine ⟨fun hx => absurd hx taken, fun _ => ⟨feeder, sizes⟩, parts, fun hx => ?_, fun hx => ?_, further⟩
  · rwa [if_pos hx] at total
  · rwa [if_neg (by rw [hx]; decide)] at total

theorem filling1_taken : takenWhole (filling1.slots.get 1) ∧ takenWhole (filling1.slots.get 2) := by
  unfold takenWhole; decide +kernel

theorem filling1_slots (i : Fin 4) : (filling1.slots.get i).Whole := by
  match i with
  | 0 => exact Slot.empty_whole
  | 1 => exact takenWhole_whole filling1_taken.1
  | 2 => exact takenWhole_whole filling1_taken.2
  | 3 => exact Slot.empty_whole

theorem filling1_rings : ∀ f : Fin 4, (filling1.rings.get f).length ≤ 128 := by decide +kernel

theorem filling1_whole : filling1.CaptureWhole :=
  ⟨filling1_rings, filling1_slots, by decide +kernel, by decide +kernel, by decide +kernel, by decide +kernel⟩

theorem witness_record : filling1.active.feederUsed 0 = true ∧ (filling1.rings.get 0).length < 128
    ∧ ({ filling1 with rings := .all (List.replicate 128 (sample 1)) }.rings.get 0).length = 128 := by decide +kernel

theorem witness_capture_commands : start.active.feederUsed 0 = true ∧ start.active.feederUsed 1 = false
    ∧ (filling1.slots.get 2).state = .frozen ∧ (filling1.slots.get 1).state = .filling ∧ (filling1.slots.get 0).state = .free
    ∧ (1#8).toNat ≤ 1 ∧ 1 < (2#8).toNat := by decide +kernel

/-! ### Proofs -/

/-- The engine with a pulse on line 3. -/
def pulsing : State := { run1 (.proveLine 9 [3, 0, 100]) start with replies := [] }

/-- The engine with a dry proof of zone 1 pending. -/
def proving : State := { run1 (.proveZone 9 [1, 1]) start with replies := [] }

theorem linesFollow_start : start.LinesFollow := by
  have : ∀ l : Fin 4, start.lines.get l = (start.policyCondition l || start.pulseOn l) := by decide +kernel
  exact this

theorem witness_proof_commands : start.proof.state = .none ∧ pulsing.proof.state ≠ .none ∧ (31#8).toNat < 32
    ∧ start.lines.get 3 = false ∧ pulsing.lines.get 3 = true
    ∧ 10 ≤ 256 * (0#8).toNat + (10#8).toNat ∧ 256 * (7#8).toNat + (208#8).toNat = 2000
    ∧ ((with1 .live .tripped 9).zone? 1).map (·.run.state) = some .tripped := by decide +kernel

theorem canTake_proving : proving.CanTake ∧ pulsing.CanTake :=
  ⟨⟨by decide +kernel, by decide +kernel⟩, ⟨by decide +kernel, by decide +kernel⟩⟩

theorem witness_proof_ends : (proving.proof.state = .zonePending ∧ proving.proof.kind = some .proveZone ∧ proving.proof.tag = some 9)
    ∧ (pulsing.proof.state = .pulseRunning ∧ pulsing.proof.kind = some .proveLine ∧ pulsing.proof.tag = some 9)
    ∧ due { pulsing with now := 1100 }.now pulsing.proof.pulseDeadline = true
    ∧ due { pulsing with now := 1099 }.now pulsing.proof.pulseDeadline = false ∧ start.proof.state ≠ .pulseRunning
    ∧ 4 ≤ { pulsing with replies := full.replies }.replies.length ∧ pulsing.replies.length < 3 := by decide +kernel

theorem witness_shadow : proving.proof.target = some 1 ∧ proving.active.position? 1 = some (unit 12 .node (some 0) none)
    ∧ (unit 12 .node (some 0) none).feeder = 0 ∧ (proving.zone? 1).map (·.topo.source) = some (some 1)
    ∧ (proving.zone? 1).map (·.run.state) = some .normal ∧ proving.replies.length < 4 := by decide +kernel

/-- The shadow score of the forced OPEN: phase A takes the weight of OPEN alone, and the other phases score nothing. -/
theorem witness_shadow_score : (proving.zone? 1).map (fun x =>
      let e := x.eval.evaluate (proving.profile 1) x.run.state proving.now (proving.inputs x 1)
      (e.faulted, e.score, shadowScore (proving.profile 1) proving.proof.forced e)) = some (none, 0, 8)
    ∧ (proving.profile 1).weights.open_ = 8 ∧ proving.proof.forced = ⟨true, false, false, false, false⟩ := by decide +kernel

/-- The expiry of the feeder with the proof pending: DONE joins the queue, or is held at a full one. -/
theorem witness_shadow_expiry : due proving.now (proving.feeders.get 0).deadline = true
    ∧ (proving.zone? 1).map (·.topo.source) = some (some 1)
    ∧ (run1 (.feederEvaluationExpiry 0) proving).replies = [⟨0x38, 9, .done, [8, 8, 1, 0]⟩]
    ∧ (run1 (.feederEvaluationExpiry 0) { proving with replies := full.replies }).replies = full.replies
    ∧ (run1 (.feederEvaluationExpiry 0) { proving with replies := full.replies }).proof.held
      = some ⟨0x38, 9, .done, [8, 8, 1, 0]⟩ := by decide +kernel

/-- The engine with a dry proof of zone 1 pending, and a STAGED copy in which zone 1 has lost a child. -/
def provingDropped : State :=
  { proving with
    staged := { feeder0 with nodes := feeder0.nodes.set 4 none } }

theorem canTake_provingDropped : provingDropped.CanTake ∧ { proving with staged := feeder0 }.CanTake :=
  ⟨⟨by decide +kernel, by decide +kernel⟩, ⟨by decide +kernel, by decide +kernel⟩⟩

/-- PendingProofEndsWithItsZone: the bar of another unit leaves the proof; the bar of the zone's own unit abandons it. -/
theorem witness_pending_proof : proving.active.node? 1 = some (unit 12 .node (some 0) none)
    ∧ (proving.zone? 1).map (·.run.state) = some .normal
    ∧ (run1 (.barNode 7 [2]) proving).proof = proving.proof
    ∧ ((run1 (.barNode 7 [2]) proving).zone? 1).map (·.run.state) = some .normal
    ∧ ((run1 (.barNode 7 [1]) proving).zone? 1).map (·.run.state) = some .absorbed
    ∧ (run1 (.barNode 7 [1]) proving).replies = [⟨0x23, 7, .done, []⟩, ⟨0x38, 9, .abandoned, []⟩] := by decide +kernel

/-- At ACTIVATE: the proof of a kept zone follows it, the proof of a dropped one is abandoned. -/
theorem witness_pending_activate : provingDropped.staged.failure = none ∧ provingDropped.droppedTripped = none
    ∧ keptTo provingDropped.active provingDropped.staged 1 = none ∧ keptTo feeder0 feeder0 1 = some 1
    ∧ (run1 (.activate 7 []) provingDropped).replies = [⟨0x16, 7, .done, []⟩, ⟨0x38, 9, .abandoned, []⟩]
    ∧ (run1 (.activate 7 []) { proving with staged := feeder0 }).proof = proving.proof := by decide +kernel

/-! ### What every step keeps -/

/-- The running engine of 1.11 with an evaluation of feeder 0 waiting. -/
def busy : State := { start with pending := [.feederEvaluationExpiry 0] }

theorem busy_steps : ∃ t, step busy = .next t := ⟨_, rfl⟩

theorem busy_queues : busy.QueuesBounded :=
  ⟨by decide, by decide, by decide, by decide, by decide, by decide, by decide, by decide⟩

/-- An index past the records of a list names none. -/
theorem beyond {α : Type} (l : List (Option α)) (h : l.length = 48) (i : Nat) (hi : ¬ i < 48) : (l[i]?).join = none := by
  rw [List.getElem?_eq_none (by omega)]
  rfl

theorem busy_records : busy.RecordsMatch where
  nodesLength := by decide +kernel
  zonesLength := by decide +kernel
  nodes := by
    have h : ∀ i : Fin 48, (busy.node? i.val).isSome = (busy.active.node? i.val).isSome := by decide +kernel
    intro i
    by_cases hi : i < 48
    · exact h ⟨i, hi⟩
    · have h1 : busy.node? i = none := beyond busy.nodes (by decide +kernel) i hi
      have h2 : busy.active.node? i = none := beyond busy.active.nodes (by decide +kernel) i hi
      rw [h1, h2]
      rfl
  zones := by
    have h : ∀ i : Fin 48, (busy.zone? i.val).isSome = (busy.active.position? i.val).isSome := by decide +kernel
    intro i
    by_cases hi : i < 48
    · exact h ⟨i, hi⟩
    · have h1 : busy.zone? i = none := beyond busy.zones (by decide +kernel) i hi
      have h2 : busy.active.node? i = none := beyond busy.active.nodes (by decide +kernel) i hi
      have h3 : busy.active.position? i = none := by simp [Tables.position?, h2]
      rw [h1, h3]
      rfl

theorem busy_topology : busy.TopologyCurrent := by
  have h : ∀ i : Fin 48, ∀ x ∈ busy.zone? i.val, x.topo = busy.newTopology i.val := by decide +kernel
  intro z x hx
  by_cases hi : z < 48
  · exact h ⟨z, hi⟩ x hx
  · have h1 : busy.zone? z = none := beyond busy.zones (by decide +kernel) z hi
    rw [h1] at hx
    cases hx

theorem busy_configured : busy.Configured :=
  ⟨⟨by decide +kernel, by decide +kernel, by decide +kernel, by decide +kernel⟩, busy_records, busy_topology⟩

theorem busy_lines : busy.LinesFollow := linesFollow_start

theorem busy_zones : busy.ZonesBounded where
  zones := by
    have h : ∀ i : Fin 48, ∀ x ∈ busy.zone? i.val,
        x.eval = { Evaluation.fresh with evidence := 0 } ∧ x.run.trips ≤ 3 := by decide +kernel
    intro z x hx
    by_cases hi : z < 48
    · obtain ⟨h1, h2⟩ := h ⟨z, hi⟩ x hx
      refine ⟨?_, ?_, ?_, h2⟩
      · rw [h1]
        decide
      · rw [h1]
        decide
      · intro ph
        rw [h1]
        cases ph <;> decide
    · have h1 : busy.zone? z = none := beyond busy.zones (by decide +kernel) z hi
      rw [h1] at hx
      cases hx
  activeProfiles := by decide +kernel
  stagedProfiles := by decide +kernel

theorem busy_timers : busy.TimersFit where
  nodes := by
    have h : ∀ i : Fin 48, ∀ n ∈ busy.node? i.val,
        (n.silenceDeadline.isSome = true ↔ n.state = .warming ∨ n.state = .live)
        ∧ (n.seqExpect.isSome = true → n.state = .warming ∨ n.state = .live)
        ∧ (n.barReason.isSome = true ↔ n.state = .barred) := by decide +kernel
    intro z x hx
    by_cases hi : z < 48
    · obtain ⟨h1, h2, h3⟩ := h ⟨z, hi⟩ x hx
      exact ⟨h1, h2, h3⟩
    · have h1 : busy.node? z = none := beyond busy.nodes (by decide +kernel) z hi
      rw [h1] at hx
      cases hx
  zones := by
    have h : ∀ i : Fin 48, ∀ x ∈ busy.zone? i.val, x.run = { ZoneRecord.fresh with state := .normal } := by decide +kernel
    have fits : ZoneRecord.Fits { ZoneRecord.fresh with state := .normal } :=
      ⟨by decide, by decide, by decide, by decide, by decide⟩
    intro z x hx
    by_cases hi : z < 48
    · rw [h ⟨z, hi⟩ x hx]
      exact fits
    · have h1 : busy.zone? z = none := beyond busy.zones (by decide +kernel) z hi
      rw [h1] at hx
      cases hx

/-- A record whose channels are fresh and whose numbers are small is in range. -/
theorem bounded {n : NodeRun} (h : n.channels = .all .fresh ∧ n.health.inRange = true ∧ n.warmUp ≤ 1024) : n.InBounds where
  channels := fun ph => by
    rw [h.1]
    cases ph <;> constructor <;> decide
  health := h.2.1
  warmUp := h.2.2

theorem busy_nodes : busy.NodesBounded where
  nodes := by
    have h : ∀ i : Fin 48, ∀ n ∈ busy.node? i.val,
        n.channels = .all .fresh ∧ n.health.inRange = true ∧ n.warmUp ≤ 1024 := by decide +kernel
    intro i n hn
    by_cases hi : i < 48
    · exact bounded (h ⟨i, hi⟩ n hn)
    · have h1 : busy.node? i = none := beyond busy.nodes (by decide +kernel) i hi
      rw [h1] at hn
      cases hn
  counters := by decide +kernel
  activeProfiles := by decide +kernel
  stagedProfiles := by decide +kernel

/-- A step that records nothing new in a slot but counts a further trigger in the FILLING one. -/
theorem filling1_steps : ∃ t, step { filling1 with pending := [.captureNow 9 [0]] } = .next t := ⟨_, rfl⟩

/-- The TRIPPED zone stands through an evaluation of its feeder. -/
theorem witness_trip_stands : (∃ t, exec (.feederEvaluationExpiry 0) tripped1 = .next t)
    ∧ (tripped1.zone? 1).map (·.run.state) = some .tripped
    ∧ ((run1 (.feederEvaluationExpiry 0) tripped1).zone? 1).map (·.run.state) = some .tripped := by
  refine ⟨⟨_, rfl⟩, by decide +kernel, by decide +kernel⟩

/-- A FROZEN slot stands through a trigger, and through FREE CAPTURE of another slot. -/
theorem witness_frozen_stands : (∃ t, exec (.freeCapture 9 [1, 1]) filling1 = .next t)
    ∧ (filling1.slots.get 2).state = .frozen ∧ (1#8).toNat ≠ 2
    ∧ ((run1 (.freeCapture 9 [1, 1]) filling1).slots.get 2).state = .frozen := by
  refine ⟨⟨_, rfl⟩, by decide +kernel, by decide, by decide +kernel⟩

end Sys2Proof.Tests
end

/-!
The topology resolver in the forms its statements need: boundary sources (R6), the expansion of a zone's children against
`Examined` (R7), the list in order (R5), what validation says of a position (R3, R157), and hosts (R9).
-/

namespace Sys2Proof.Machine

/-! ## Boundary sources (R6) -/

section
variable {t : Tables} {live : Nat → Bool} {p q : Nat}

theorem boundarySource_of_live (h : live p = true) : boundarySource t live p = some (p, false) := by
  simp [boundarySource, h]

theorem boundarySource_of_twin (hp : live p = false) (ht : t.twinOf p = some q) (hq : live q = true) :
    boundarySource t live p = some (q, true) := by
  simp [boundarySource, hp, ht, hq]

theorem boundarySource_of_excluded (hp : live p = false) (ht : ∀ q, t.twinOf p = some q → live q = false) :
    boundarySource t live p = none := by
  cases h : t.twinOf p with
  | none => simp [boundarySource, hp, h]
  | some q => simp [boundarySource, hp, h, ht q h]

/-- A boundary source is LIVE. -/
theorem live_of_boundarySource {u : Nat} {twin : Bool} (h : boundarySource t live p = some (u, twin)) : live u = true := by
  simp only [boundarySource] at h
  split at h
  · cases h; assumption
  · split at h
    · split at h
      · cases h; assumption
      · cases h
    · cases h

end

/-! ## What a validated copy says of a position (R3, R157) -/

theorem Tables.role_of_position? {t : Tables} {i : Nat} {r : NodeRec} (h : t.position? i = some r) : r.role ≠ .twin := by
  have := (Option.filter_eq_some_iff.mp h).2
  simpa [NodeRec.isPosition] using this

theorem Tables.mem_children {t : Tables} {p c : Nat} :
    c ∈ t.children p ↔ ∃ r, t.node? c = some r ∧ r.role = .node ∧ r.parent = some p := by
  simp only [Tables.children, Tables.indices, isChildOf, List.mem_filter, List.mem_range, Option.any_eq_true,
    decide_eq_true_eq]
  exact ⟨fun h => h.2, fun h => ⟨lt_of_node?_eq h.choose_spec.1, h⟩⟩

/-- A copy that passes the validation passes each check. -/
theorem Tables.check_of_valid {t : Tables} (h : t.failure = none) {c : Option Nat × Byte} (hc : c ∈ t.checks) : c.1 = none :=
  Option.map_eq_none_iff.mp (List.findSome?_eq_none_iff.mp h c hc)

/-- Every HEAD and NODE of a validated copy has a depth, 16 at most. -/
theorem Tables.hasDepth_of_valid {t : Tables} (h : t.failure = none) {i : Nat} {r : NodeRec} (hr : t.node? i = some r)
    (hrole : r.role ≠ .twin) : ∃ d ≤ Config.maxDepth, HasDepth t i d := by
  cases hk : r.role with
  | head => exact ⟨1, by decide, .head hr hk⟩
  | twin => exact absurd hk hrole
  | node =>
    have cycle := Tables.firstNode_none.mp (t.check_of_valid h (c := (t.firstNode t.badCycle, 6)) (by simp [Tables.checks]))
    have deep := Tables.firstNode_none.mp (t.check_of_valid h (c := (t.firstNode t.badDepth, 7)) (by simp [Tables.checks]))
    have hc := cycle i r hr
    have hd := deep i r hr
    simp only [Tables.badCycle, Tables.badDepth, hk, decide_true, Bool.true_and] at hc hd
    obtain ⟨d, hdepth⟩ := Option.isSome_iff_exists.mp (by simpa using hc)
    refine ⟨d, ?_, Tables.depth_iff.mp hdepth⟩
    simpa [hdepth] using hd

/-- One level down the tree is one depth more. -/
theorem HasDepth.of_child {t : Tables} {p c d : Nat} (h : HasDepth t p d) (hc : c ∈ t.children p) : HasDepth t c (d + 1) := by
  obtain ⟨r, hr, hrole, hparent⟩ := Tables.mem_children.mp hc
  exact .node hr hrole hparent h

/-- A NODE with a depth has a parent one level up. -/
theorem HasDepth.parent {t : Tables} {i d : Nat} {r : NodeRec} (h : HasDepth t i d) (hr : t.node? i = some r)
    (hrole : r.role = .node) : ∃ p e, r.parent = some p ∧ HasDepth t p e ∧ d = e + 1 := by
  cases h with
  | head hq hhead =>
    cases hr.symm.trans hq
    cases hrole.symm.trans hhead
  | node hq _ hparent above =>
    cases hr.symm.trans hq
    exact ⟨_, _, hparent, above, rfl⟩

theorem Tables.inRange_of_node? {t : Tables} (h : t.inRange = true) {i : Nat} {r : NodeRec} (hr : t.node? i = some r) :
    r.inRange = true := by
  simp only [Tables.inRange, Bool.and_eq_true, List.all_eq_true] at h
  obtain ⟨⟨⟨⟨⟨-, nodes⟩, -⟩, -⟩, -⟩, -⟩ := h
  have hmem : some r ∈ t.nodes := List.mem_of_getElem? (Option.join_eq_some_iff.mp hr)
  simpa using nodes _ hmem

/-- A HEAD in range names no parent (R154). -/
theorem NodeRec.parent_of_head {r : NodeRec} (h : r.inRange = true) (hrole : r.role = .head) : r.parent = none := by
  simp only [NodeRec.inRange, hrole, Bool.and_eq_true, Option.isNone_iff_eq_none] at h
  exact h.2.1

/-! ## The expansion (R7) -/

section
variable {t : Tables} {live : Nat → Bool} {z c d fuel : Nat}

theorem Examined.lt_length (h : Examined t live z c) : c < t.nodes.length := by
  cases h with
  | child hc => obtain ⟨r, hr, -⟩ := Tables.mem_children.mp hc; exact lt_of_node?_eq hr
  | under _ _ hc => obtain ⟨r, hr, -⟩ := Tables.mem_children.mp hc; exact lt_of_node?_eq hr

theorem expand_of_source {u : Nat} {twin : Bool} (h : boundarySource t live c = some (u, twin)) :
    expand t live (fuel + 1) c = ([⟨c, u, twin⟩], []) := by
  simp [expand, h]

theorem expand_of_excluded (h : boundarySource t live c = none) :
    expand t live (fuel + 1) c = (((t.children c).map (expand t live fuel)).flatMap Prod.fst,
      c :: ((t.children c).map (expand t live fuel)).flatMap Prod.snd) := by
  simp [expand, h]

/-- What an expansion of a zone may find: examined positions, those with a source as boundaries, the others as members. -/
structure SoundEnds (t : Tables) (live : Nat → Bool) (z : Nat) (ends : List Boundary × List Nat) : Prop where
  boundaries : ∀ b ∈ ends.1, Examined t live z b.position
    ∧ boundarySource t live b.position = some (b.source, b.twinInUse)
  members : ∀ m ∈ ends.2, Examined t live z m ∧ boundarySource t live m = none

/-- The positions that an expansion has taken, as boundaries or as members. -/
def Reached (ends : List Boundary × List Nat) (d : Nat) : Prop := (∃ b ∈ ends.1, b.position = d) ∨ d ∈ ends.2

/-- Sound expansions of several positions are sound together. -/
theorem SoundEnds.flatMap {all : List (List Boundary × List Nat)} (h : ∀ ends ∈ all, SoundEnds t live z ends) :
    SoundEnds t live z (all.flatMap Prod.fst, all.flatMap Prod.snd) where
  boundaries b hb := by
    obtain ⟨ends, hends, hb⟩ := List.mem_flatMap.mp hb
    exact (h ends hends).boundaries b hb
  members m hm := by
    obtain ⟨ends, hends, hm⟩ := List.mem_flatMap.mp hm
    exact (h ends hends).members m hm

theorem expand_sound (h : Examined t live z c) : SoundEnds t live z (expand t live fuel c) := by
  induction fuel generalizing c with
  | zero => constructor <;> simp [expand]
  | succ n ih =>
    cases hs : boundarySource t live c with
    | some source =>
      rw [expand_of_source hs]
      constructor <;> simp [h, hs]
    | none =>
      rw [expand_of_excluded hs]
      have below := SoundEnds.flatMap (List.forall_mem_map.mpr fun e he => ih (.under h hs he))
      exact ⟨below.boundaries, List.forall_mem_cons.mpr ⟨⟨h, hs⟩, below.members⟩⟩

theorem lowerEnds_sound (t : Tables) (live : Nat → Bool) (z : Nat) : SoundEnds t live z (lowerEnds t live z) :=
  .flatMap (List.forall_mem_map.mpr fun _ he => expand_sound (.child he))

/-- An expansion with fuel left takes the position it starts at. -/
theorem expand_reaches_start (t : Tables) (live : Nat → Bool) (fuel c : Nat) : Reached (expand t live (fuel + 1) c) c := by
  cases hs : boundarySource t live c with
  | some source => rw [expand_of_source hs]; simp [Reached]
  | none => rw [expand_of_excluded hs]; simp [Reached]

/-- What one expansion of a list reaches, their union reaches. -/
theorem Reached.flatMap {ends : List Boundary × List Nat} {all : List (List Boundary × List Nat)} (h : Reached ends d)
    (hmem : ends ∈ all) : Reached (all.flatMap Prod.fst, all.flatMap Prod.snd) d := by
  rcases h with ⟨b, hb, hd⟩ | hd
  · exact .inl ⟨b, List.mem_flatMap.mpr ⟨ends, hmem, hb⟩, hd⟩
  · exact .inr (List.mem_flatMap.mpr ⟨ends, hmem, hd⟩)

theorem Reached.cons {bs : List Boundary} {ms : List Nat} (h : Reached (bs, ms) d) : Reached (bs, c :: ms) d :=
  h.imp id (List.mem_cons_of_mem c)

/-- In a tree no deeper than 16, an expansion with fuel for the levels left takes the children of every member it finds. -/
theorem expand_closed (hv : t.failure = none) {k m : Nat} (hk : HasDepth t c k) (hf : Config.maxDepth < fuel + k)
    (hm : m ∈ (expand t live fuel c).2) (hd : d ∈ t.children m) : Reached (expand t live fuel c) d := by
  induction fuel generalizing c k with
  | zero => simp [expand] at hm
  | succ n ih =>
    cases hs : boundarySource t live c with
    | some source => simp [expand_of_source hs] at hm
    | none =>
      rw [expand_of_excluded hs] at hm ⊢
      rcases List.mem_cons.mp hm with rfl | hm
      · obtain ⟨r, hr, hrole, -⟩ := Tables.mem_children.mp hd
        obtain ⟨e, he, hdepth⟩ := Tables.hasDepth_of_valid hv hr (by simp [hrole])
        have heq := hdepth.unique (hk.of_child hd)
        obtain ⟨fuel', rfl⟩ : ∃ fuel', n = fuel' + 1 := ⟨n - 1, by omega⟩
        exact ((expand_reaches_start t live fuel' d).flatMap (List.mem_map_of_mem hd)).cons
      · obtain ⟨_, hx, hm⟩ := List.mem_flatMap.mp hm
        obtain ⟨e, he, rfl⟩ := List.mem_map.mp hx
        exact ((ih (hk.of_child he) (by omega) hm).flatMap (List.mem_map_of_mem he)).cons

/-- In a validated copy the lower ends of a zone hold every examined position. -/
theorem lowerEnds_complete (hv : t.failure = none) (h : Examined t live z d) : Reached (lowerEnds t live z) d := by
  induction h with
  | child hd => exact (expand_reaches_start t live 15 _).flatMap (List.mem_map_of_mem hd)
  | @under c d _ hs hd ih =>
    have hc : c ∈ (lowerEnds t live z).2 := by
      rcases ih with ⟨b, hb, rfl⟩ | hc
      · have := ((lowerEnds_sound t live z).boundaries b hb).2
        cases hs.symm.trans this
      · exact hc
    obtain ⟨_, hx, hc⟩ := List.mem_flatMap.mp hc
    obtain ⟨e, he, rfl⟩ := List.mem_map.mp hx
    obtain ⟨r, hr, hrole, -⟩ := Tables.mem_children.mp he
    obtain ⟨k, -, hk⟩ := Tables.hasDepth_of_valid hv hr (by simp [hrole])
    have hpos : 0 < k := by cases hk <;> omega
    exact (expand_closed hv hk (by omega) hc hd).flatMap (List.mem_map_of_mem he)

/-- The boundaries of a zone of a validated copy. -/
theorem mem_lowerEnds_fst (hv : t.failure = none) {b : Boundary} : b ∈ (lowerEnds t live z).1
    ↔ Examined t live z b.position ∧ boundarySource t live b.position = some (b.source, b.twinInUse) := by
  refine ⟨(lowerEnds_sound t live z).boundaries b, fun ⟨hex, hs⟩ => ?_⟩
  rcases lowerEnds_complete hv hex with ⟨b', hb', hpos⟩ | hm
  · have hs' := ((lowerEnds_sound t live z).boundaries b' hb').2
    rw [hpos, hs] at hs'
    cases b; cases b'; cases hs'; cases hpos
    exact hb'
  · cases hs.symm.trans ((lowerEnds_sound t live z).members _ hm).2

/-- The absorbed members of a zone of a validated copy. -/
theorem mem_lowerEnds_snd (hv : t.failure = none) :
    c ∈ (lowerEnds t live z).2 ↔ Examined t live z c ∧ boundarySource t live c = none := by
  refine ⟨(lowerEnds_sound t live z).members c, fun ⟨hex, hs⟩ => ?_⟩
  rcases lowerEnds_complete hv hex with ⟨b, hb, rfl⟩ | hm
  · cases hs.symm.trans ((lowerEnds_sound t live z).boundaries b hb).2
  · exact hm

end

/-! ## Ascending order (R5, R7) -/

section
variable {t : Tables}

theorem position_of_find?_position {bs : List Boundary} {i : Nat} {b : Boundary}
    (h : bs.find? (fun b => decide (b.position = i)) = some b) : b.position = i := by
  simpa using List.find?_some h

theorem sortBoundaries_ascending (bs : List Boundary) : ((sortBoundaries t bs).map (·.position)).Pairwise (· < ·) := by
  rw [List.pairwise_map, sortBoundaries, List.pairwise_filterMap]
  refine List.pairwise_lt_range.imp fun {i j} hij b hb b' hb' => ?_
  rw [position_of_find?_position hb, position_of_find?_position hb']
  exact hij

theorem mem_of_mem_sortBoundaries {bs : List Boundary} {b : Boundary} (h : b ∈ sortBoundaries t bs) : b ∈ bs := by
  obtain ⟨i, -, hi⟩ := List.mem_filterMap.mp h
  exact List.mem_of_find?_eq_some hi

/-- Sorting keeps every boundary whose position is an index of the copy and is held once. -/
theorem mem_sortBoundaries {bs : List Boundary} {b : Boundary} (hlt : b.position < t.nodes.length)
    (once : ∀ b' ∈ bs, b'.position = b.position → b' = b) : b ∈ sortBoundaries t bs ↔ b ∈ bs := by
  refine ⟨mem_of_mem_sortBoundaries, fun hb => List.mem_filterMap.mpr ⟨b.position, List.mem_range.mpr hlt, ?_⟩⟩
  obtain ⟨b', hb'⟩ := Option.isSome_iff_exists.mp
    (List.find?_isSome (p := fun b' : Boundary => decide (b'.position = b.position)) |>.mpr ⟨b, hb, by simp⟩)
  rw [hb', once b' (List.mem_of_find?_eq_some hb') (position_of_find?_position hb')]

theorem sortIndices_ascending (is : List Nat) : (sortIndices t is).Pairwise (· < ·) := List.pairwise_lt_range.filter _

theorem mem_sortIndices {is : List Nat} {i : Nat} : i ∈ sortIndices t is ↔ i < t.nodes.length ∧ i ∈ is := by
  simp [sortIndices, Tables.indices]

end

/-! ## The record of a zone (R8, R9) -/

section
variable {t : Tables} {live : Nat → Bool} {z : Nat}

/-- The boundaries found for a zone, ascending: its list before the cap of R8. -/
def foundBoundaries (t : Tables) (live : Nat → Bool) (z : Nat) : List Boundary := sortBoundaries t (lowerEnds t live z).1

/-- The members found for a zone, ascending. -/
def foundMembers (t : Tables) (live : Nat → Bool) (z : Nat) : List Nat := sortIndices t (lowerEnds t live z).2

theorem topologyOf_of_source {u : Nat} {twin : Bool} (h : boundarySource t live z = some (u, twin)) :
    topologyOf t live z =
      { position := z
        source := some u
        twinInUse := twin
        evaluability := if 8 < (foundBoundaries t live z).length then .boundaryOverflow else .evaluable
        host := none
        count := (foundBoundaries t live z).length
        list := (foundBoundaries t live z).take 8
        absorbed := foundMembers t live z } := by
  simp only [topologyOf, h]; rfl

theorem topologyOf_of_headLost {r : NodeRec} (h : boundarySource t live z = none) (hr : t.node? z = some r)
    (hrole : r.role = .head) :
    topologyOf t live z =
      { position := z
        source := none
        twinInUse := false
        evaluability := .headLost
        host := none
        count := (foundBoundaries t live z).length
        list := (foundBoundaries t live z).take 8
        absorbed := foundMembers t live z } := by
  simp only [topologyOf, h, hr, hrole, Option.any_some, decide_true, if_true]; rfl

theorem topologyOf_of_absorbed (h : boundarySource t live z = none) (hrole : ∀ r, t.node? z = some r → r.role ≠ .head) :
    topologyOf t live z =
      { position := z
        source := none
        twinInUse := false
        evaluability := .absorbed
        host := ((t.node? z).bind (·.parent)).map (hostFrom t live 16)
        count := 0
        list := []
        absorbed := [] } := by
  have hhead : (t.node? z).any (fun r => decide (r.role = .head)) = false := by simpa [Option.any_eq_false] using hrole
  simp only [topologyOf, h, hhead, Bool.false_eq_true, if_false]; rfl

@[simp] theorem topologyOf_position (t : Tables) (live : Nat → Bool) (z : Nat) : (topologyOf t live z).position = z := by
  simp only [topologyOf]
  split
  · rfl
  · split <;> rfl

theorem topologyOf_source_of_excluded (h : boundarySource t live z = none) :
    (topologyOf t live z).source = none ∧ (topologyOf t live z).twinInUse = false := by
  simp only [topologyOf, h]
  split <;> exact ⟨rfl, rfl⟩

/-- The lower ends that a record holds: those found, or none where the upper end of a NODE is lost. -/
theorem topologyOf_ends (t : Tables) (live : Nat → Bool) (z : Nat) :
    ((topologyOf t live z).count = (foundBoundaries t live z).length
      ∧ (topologyOf t live z).list = (foundBoundaries t live z).take 8
      ∧ (topologyOf t live z).absorbed = foundMembers t live z)
    ∨ ((topologyOf t live z).count = 0 ∧ (topologyOf t live z).list = [] ∧ (topologyOf t live z).absorbed = []) := by
  cases h : boundarySource t live z with
  | some source => rw [topologyOf_of_source h]; exact .inl ⟨rfl, rfl, rfl⟩
  | none =>
    by_cases hhead : ∃ r, t.node? z = some r ∧ r.role = .head
    · obtain ⟨r, hr, hrole⟩ := hhead
      rw [topologyOf_of_headLost h hr hrole]; exact .inl ⟨rfl, rfl, rfl⟩
    · rw [topologyOf_of_absorbed h fun r hr hrole => hhead ⟨r, hr, hrole⟩]; exact .inr ⟨rfl, rfl, rfl⟩

/-- A zone with a source at its upper end, and the HEAD zone, hold the lower ends found. -/
theorem topologyOf_ends_of_expanded {r : NodeRec} (hr : t.node? z = some r)
    (h : (boundarySource t live z).isSome = true ∨ r.role = .head) :
    (topologyOf t live z).count = (foundBoundaries t live z).length
      ∧ (topologyOf t live z).list = (foundBoundaries t live z).take 8
      ∧ (topologyOf t live z).absorbed = foundMembers t live z := by
  cases hs : boundarySource t live z with
  | some source => rw [topologyOf_of_source hs]; exact ⟨rfl, rfl, rfl⟩
  | none =>
    have hrole : r.role = .head := by simpa [hs] using h
    rw [topologyOf_of_headLost hs hr hrole]; exact ⟨rfl, rfl, rfl⟩

/-- A boundary found has its source, which is LIVE. -/
theorem source_of_mem_foundBoundaries {b : Boundary} (h : b ∈ foundBoundaries t live z) :
    boundarySource t live b.position = some (b.source, b.twinInUse) :=
  ((lowerEnds_sound t live z).boundaries b (mem_of_mem_sortBoundaries h)).2

theorem mem_foundBoundaries (hv : t.failure = none) {b : Boundary} : b ∈ foundBoundaries t live z
    ↔ Examined t live z b.position ∧ boundarySource t live b.position = some (b.source, b.twinInUse) := by
  refine ⟨fun h => (mem_lowerEnds_fst hv).mp (mem_of_mem_sortBoundaries h), fun h => ?_⟩
  refine (mem_sortBoundaries h.1.lt_length fun b' hb' hpos => ?_).mpr ((mem_lowerEnds_fst hv).mpr h)
  have hs := ((mem_lowerEnds_fst hv).mp hb').2
  rw [hpos, h.2] at hs
  cases b; cases b'; cases hs; cases hpos
  rfl

theorem mem_foundMembers (hv : t.failure = none) {c : Nat} :
    c ∈ foundMembers t live z ↔ Examined t live z c ∧ boundarySource t live c = none := by
  rw [foundMembers, mem_sortIndices, mem_lowerEnds_snd hv]
  exact ⟨fun h => h.2, fun h => ⟨h.1.lt_length, h⟩⟩

/-! ## Hosts (R9) -/

theorem hostFrom_of_source {p fuel : Nat} (h : (boundarySource t live p).isSome = true) :
    hostFrom t live (fuel + 1) p = p := by
  simp [hostFrom, h]

theorem hostFrom_of_head {p fuel : Nat} {r : NodeRec} (hr : t.node? p = some r) (hparent : r.parent = none) :
    hostFrom t live (fuel + 1) p = p := by
  simp [hostFrom, hr, hparent]

theorem hostFrom_of_excluded {p q fuel : Nat} {r : NodeRec} (h : boundarySource t live p = none) (hr : t.node? p = some r)
    (hparent : r.parent = some q) : hostFrom t live (fuel + 1) p = hostFrom t live fuel q := by
  simp [hostFrom, h, hr, hparent]

/-- With fuel for every level up to the HEAD, more fuel makes no difference. -/
theorem hostFrom_fuel (hin : t.inRange = true) {p d fuel more : Nat} (h : HasDepth t p d) (hf : d ≤ fuel) (hm : d ≤ more) :
    hostFrom t live fuel p = hostFrom t live more p := by
  induction h generalizing fuel more with
  | @head i r hr hrole =>
    obtain ⟨n, rfl⟩ : ∃ n, fuel = n + 1 := ⟨fuel - 1, by omega⟩
    obtain ⟨m, rfl⟩ : ∃ m, more = m + 1 := ⟨more - 1, by omega⟩
    have hparent := NodeRec.parent_of_head (Tables.inRange_of_node? hin hr) hrole
    rw [hostFrom_of_head hr hparent, hostFrom_of_head hr hparent]
  | @node i q d r hr _ hparent _ ih =>
    obtain ⟨n, rfl⟩ : ∃ n, fuel = n + 1 := ⟨fuel - 1, by omega⟩
    obtain ⟨m, rfl⟩ : ∃ m, more = m + 1 := ⟨more - 1, by omega⟩
    cases hs : boundarySource t live i with
    | some source => rw [hostFrom_of_source (by simp [hs]), hostFrom_of_source (by simp [hs])]
    | none =>
      rw [hostFrom_of_excluded hs hr hparent, hostFrom_of_excluded hs hr hparent]
      exact ih (Nat.le_of_succ_le_succ hf) (Nat.le_of_succ_le_succ hm)

/-- The host of an absorbed zone: its parent where that has a source or is the HEAD, else its parent's host. -/
theorem topologyOf_host (hin : t.inRange = true) (hv : t.failure = none) {r y : NodeRec} {q : Nat}
    (hr : t.node? z = some r) (hrole : r.role = .node) (hs : boundarySource t live z = none) (hparent : r.parent = some q)
    (hy : t.position? q = some y) :
    (topologyOf t live z).host = if (boundarySource t live q).isSome = true ∨ y.role = .head then some q
      else (topologyOf t live q).host := by
  have hz : (topologyOf t live z).host = some (hostFrom t live 16 q) := by
    rw [topologyOf_of_absorbed hs fun x hx => by cases hr.symm.trans hx; simp [hrole]]
    simp [hr, hparent]
  have hq := Tables.node?_of_position? hy
  rw [hz]
  split
  · rename_i hclosed
    rcases hclosed with hsource | hhead
    · rw [hostFrom_of_source hsource]
    · rw [hostFrom_of_head hq (NodeRec.parent_of_head (Tables.inRange_of_node? hin hq) hhead)]
  · rename_i hopen
    obtain ⟨hsource, hhead⟩ := not_or.mp hopen
    have hqs : boundarySource t live q = none := by simpa using hsource
    have hqrole : y.role = .node := by
      cases hk : y.role with
      | node => rfl
      | head => exact absurd hk hhead
      | twin => exact absurd hk (Tables.role_of_position? hy)
    obtain ⟨d, hd, hdepth⟩ := Tables.hasDepth_of_valid hv hq (by simp [hqrole])
    obtain ⟨p, e, hp, above, rfl⟩ := hdepth.parent hq hqrole
    have hle : e + 1 ≤ 16 := hd
    rw [topologyOf_of_absorbed hqs fun x hx => by cases hq.symm.trans hx; simp [hqrole], hostFrom_of_excluded hqs hq hp,
      hostFrom_fuel hin above (by omega : e ≤ 15) (by omega : e ≤ 16)]
    simp [hq, hp]

/-! ## The statement -/

/-- The list of any record is ascending, LIVE and capped at 8; the members are excluded positions, ascending. -/
theorem topologyOf_ordered (t : Tables) (live : Nat → Bool) (z : Nat) :
    ((topologyOf t live z).list.map (·.position)).Pairwise (· < ·)
      ∧ (topologyOf t live z).list.length = min 8 (topologyOf t live z).count
      ∧ (∀ b ∈ (topologyOf t live z).list,
          boundarySource t live b.position = some (b.source, b.twinInUse) ∧ live b.source = true)
      ∧ (topologyOf t live z).absorbed.Pairwise (· < ·)
      ∧ ∀ p ∈ (topologyOf t live z).absorbed, boundarySource t live p = none := by
  rcases topologyOf_ends t live z with ⟨hcount, hlist, habsorbed⟩ | ⟨hcount, hlist, habsorbed⟩
  · rw [hcount, hlist, habsorbed]
    refine ⟨?_, List.length_take, fun b hb => ?_, sortIndices_ascending _, fun p hp => ?_⟩
    · rw [List.map_take]
      exact (sortBoundaries_ascending _).sublist (List.take_sublist _ _)
    · have hs := source_of_mem_foundBoundaries (List.mem_of_mem_take hb)
      exact ⟨hs, live_of_boundarySource hs⟩
    · exact ((lowerEnds_sound t live z).members p (mem_sortIndices.mp hp).2).2
  · simp [hcount, hlist, habsorbed]

end

/-- Settles O28: the three parts by the equations of R6, the order of the lists, and in a validated copy the expansion
against `Examined` and the host by the depth of the tree. -/
theorem topologyRecordOfAZone : Obligations.TopologyRecordOfAZone := by
  refine ⟨fun t live p => ⟨boundarySource_of_live, fun q => boundarySource_of_twin, boundarySource_of_excluded⟩, ?_, ?_⟩
  · rintro t live z x rfl
    exact topologyOf_ordered t live z
  · rintro t live z r x hin hv hz rfl
    have hr := Tables.node?_of_position? hz
    refine ⟨topologyOf_position t live z, fun u twin hs => ?_, topologyOf_source_of_excluded, fun hs hrole => ?_,
      fun hs hrole => ?_, fun hexpanded => ?_⟩
    · rw [topologyOf_of_source hs]
      exact ⟨rfl, rfl, rfl, rfl⟩
    · rw [topologyOf_of_headLost hs hr hrole]
      exact ⟨rfl, rfl⟩
    · refine ⟨?_, ?_, ?_, ?_, fun q y hparent hy => topologyOf_host hin hv hr hrole hs hparent hy⟩ <;>
        rw [topologyOf_of_absorbed hs fun x hx => by cases hr.symm.trans hx; simp [hrole]]
    · obtain ⟨hcount, hlist, habsorbed⟩ := topologyOf_ends_of_expanded hr hexpanded
      rw [hcount, hlist, habsorbed]
      exact ⟨⟨foundBoundaries t live z, sortBoundaries_ascending _, fun b => mem_foundBoundaries hv, rfl, rfl⟩,
        fun c => mem_foundMembers hv⟩

end Sys2Proof.Machine

/-!
The evaluation of a phase in the forms its statements need: the inputs by the records (R11, R64), and each of the five tests
as an equivalence (R66, R69 to R76).
-/

namespace Sys2Proof.Machine

/-! ## Inputs (R11, R64) -/

theorem State.unit_of_some {s : State} {i : Nat} {r : NodeRec} {n : NodeRun} (hr : s.active.node? i = some r)
    (hn : s.node? i = some n) : s.unit i = ⟨r.voltageSensing, (s.active.profileOf r).iMin, n.channels⟩ := by
  simp only [State.unit, hr, hn]

theorem State.motionHeld_iff {s : State} {i : Nat} {ph : Phase} :
    s.motionHeld i ph = true ↔ ∃ m, s.node? i = some m ∧ (m.motionHold.get ph).isSome = true :=
  Option.any_eq_true _ _

theorem mem_withTwin {t : Tables} {c i : Nat} : i ∈ withTwin t c ↔ i = c ∨ t.twinOf c = some i := by
  simp [withTwin]

/-- The covered set (R11): the zone's position, its boundaries and its absorbed members, each with its twin. -/
theorem mem_coveredSet {t : Tables} {x : Topology} {i : Nat} : i ∈ coveredSet t x
    ↔ ∃ c, (c = x.position ∨ (∃ b ∈ x.list, b.position = c) ∨ c ∈ x.absorbed) ∧ (i = c ∨ t.twinOf c = some i) := by
  simp only [coveredSet, List.mem_append, List.mem_flatMap, mem_withTwin]
  constructor
  · rintro ((h | ⟨b, hb, h⟩) | ⟨c, hc, h⟩)
    · exact ⟨x.position, .inl rfl, h⟩
    · exact ⟨b.position, .inr (.inl ⟨b, hb, rfl⟩), h⟩
    · exact ⟨c, .inr (.inr hc), h⟩
  · rintro ⟨c, rfl | ⟨b, hb, rfl⟩ | hc, h⟩
    · exact .inl (.inl h)
    · exact .inl (.inr ⟨b, hb, h⟩)
    · exact .inr ⟨c, hc, h⟩

theorem State.inputs_motion_iff {s : State} {x : Zone} {u : Nat} {ph : Phase} :
    (s.inputs x u).motion.get ph = true ↔ ∃ i ∈ coveredSet s.active x.topo, s.motionHeld i ph = true := by
  simp [State.inputs]

/-! ## The phase tests -/

section
variable {p : ZoneProfile} {ins : ZoneInputs} {ph : Phase}

theorem mem_otherPhases {ph q : Phase} : q ∈ otherPhases ph ↔ q ≠ ph := by
  cases ph <;> cases q <;> decide

/-- A single-phase drop (R71): D_end reached on the phase, and a quarter of it on no other. -/
theorem singleDrop_iff {u : UnitView} : singleDrop p u ph = true
    ↔ p.dEnd ≤ u.drop ph ∧ ∀ q, q ≠ ph → u.drop q < p.dEnd / 4 := by
  simp only [singleDrop, Bool.and_eq_true, decide_eq_true_eq, List.all_eq_true, mem_otherPhases]

theorem foldl_min_le_iff {xs : List Nat} {a r : Nat} : xs.foldl min a ≤ r ↔ a ≤ r ∨ ∃ x ∈ xs, x ≤ r := by
  induction xs generalizing a with
  | nil => simp
  | cons x xs ih => simp [ih, or_assoc]

/-- Where a boundary unit has voltage sensing, the smallest ratio is at or below a bound where one of them is (R70): a ratio
is at most 1000, where the search starts. -/
theorem smallestRatio_le_iff {bound : Nat} (h : ∃ d ∈ ins.down, d.sensing = true) :
    smallestRatio ins ph ≤ bound ↔ ∃ d ∈ ins.down, d.sensing = true ∧ voltageRatio ins.up d ph ≤ bound := by
  have hfold : smallestRatio ins ph ≤ bound
      ↔ 1000 ≤ bound ∨ ∃ d ∈ ins.down, d.sensing = true ∧ voltageRatio ins.up d ph ≤ bound := by
    simp [smallestRatio, foldl_min_le_iff, and_assoc]
  refine hfold.trans (or_iff_right_of_imp fun hb => ?_)
  obtain ⟨d, hd, hsensing⟩ := h
  exact ⟨d, hd, hsensing, (Nat.min_le_left _ _).trans hb⟩

theorem highestDrop_eq_none {ds : List UnitView} : highestDrop ph ds = none ↔ ds = [] := by
  cases ds with
  | nil => simp [highestDrop]
  | cons d ds =>
    simp only [highestDrop, reduceCtorEq, iff_false]
    split
    · simp
    · split <;> simp

/-- The unit of the highest drop has its place in the list: every unit before it drops less, and none after it more. -/
theorem split_of_highestDrop {ds : List UnitView} {d : UnitView} (h : highestDrop ph ds = some d) :
    ∃ before rest, ds = before ++ d :: rest ∧ (∀ b ∈ before, b.drop ph < d.drop ph) ∧ ∀ b ∈ rest, b.drop ph ≤ d.drop ph := by
  induction ds generalizing d with
  | nil => cases h
  | cons c cs ih =>
    cases hcs : highestDrop ph cs with
    | none =>
      simp only [highestDrop, hcs, Option.some.injEq] at h
      exact ⟨[], [], by simp [h, highestDrop_eq_none.mp hcs]⟩
    | some e =>
      obtain ⟨before, rest, rfl, hbefore, hrest⟩ := ih hcs
      simp only [highestDrop, hcs] at h
      split at h
      · rename_i hlt
        cases h
        exact ⟨c :: before, rest, rfl, List.forall_mem_cons.mpr ⟨hlt, hbefore⟩, hrest⟩
      · rename_i hge
        cases h
        have below : ∀ b ∈ before ++ e :: rest, b.drop ph ≤ e.drop ph := by
          simp only [List.forall_mem_append, List.forall_mem_cons]
          exact ⟨fun b hb => (hbefore b hb).le, le_rfl, hrest⟩
        exact ⟨[], _, rfl, by simp, fun b hb => (below b hb).trans (Nat.le_of_not_lt hge)⟩

theorem highestDrop_of_split {before rest : List UnitView} {d : UnitView} (hbefore : ∀ b ∈ before, b.drop ph < d.drop ph)
    (hrest : ∀ b ∈ rest, b.drop ph ≤ d.drop ph) : highestDrop ph (before ++ d :: rest) = some d := by
  induction before with
  | nil =>
    cases h : highestDrop ph rest with
    | none => simp [highestDrop, h]
    | some e =>
      obtain ⟨_, _, rfl, -, -⟩ := split_of_highestDrop h
      have hle : ¬ d.drop ph < e.drop ph := Nat.not_lt.mpr (hrest e (by simp))
      simp [highestDrop, h, hle]
  | cons b bs ih =>
    obtain ⟨hb, hbs⟩ := List.forall_mem_cons.mp hbefore
    simp [highestDrop, ih hbs, hb]

/-- The boundary unit that the current form of OPEN asks (R71). -/
theorem highestDrop_eq_some {ds : List UnitView} {d : UnitView} : highestDrop ph ds = some d
    ↔ ∃ before rest, ds = before ++ d :: rest ∧ (∀ b ∈ before, b.drop ph < d.drop ph)
      ∧ ∀ b ∈ rest, b.drop ph ≤ d.drop ph :=
  ⟨split_of_highestDrop, fun ⟨_, _, hds, hbefore, hrest⟩ => hds ▸ highestDrop_of_split hbefore hrest⟩

theorem openForm_of_nil (h : ins.down = []) : openForm ins = .upstreamDrop := by simp [openForm, h]

theorem openForm_of_sensing (h : ins.down ≠ []) (hup : ins.up.sensing = true) (hdown : ∃ d ∈ ins.down, d.sensing = true) :
    openForm ins = .voltage := by
  simp [openForm, h, hup, hdown]

theorem openForm_of_current (h : ins.down ≠ []) (hs : ins.up.sensing = false ∨ ∀ d ∈ ins.down, d.sensing = false) :
    openForm ins = .boundaryDrop := by
  have : (ins.up.sensing && ins.down.any (·.sensing)) = false := by
    rcases hs with hup | hdown
    · simp [hup]
    · simpa using fun _ => hdown
  simp [openForm, h, this]

/-- OPEN of an end zone (R69, R71). -/
theorem openFound_of_nil (h : ins.down = []) : openFound p ins ph = singleDrop p ins.up ph := by
  simp only [openFound, openForm_of_nil h]

/-- OPEN by the voltages (R69, R70). -/
theorem openFound_of_sensing (h : ins.down ≠ []) (hup : ins.up.sensing = true) (hdown : ∃ d ∈ ins.down, d.sensing = true) :
    openFound p ins ph = true ↔ ∃ d ∈ ins.down, d.sensing = true ∧ voltageRatio ins.up d ph ≤ p.rhoOpen := by
  simp only [openFound, openForm_of_sensing h hup hdown, decide_eq_true_eq]
  exact smallestRatio_le_iff hdown

/-- OPEN by the currents below (R69, R71). -/
theorem openFound_of_current (h : ins.down ≠ []) (hs : ins.up.sensing = false ∨ ∀ d ∈ ins.down, d.sensing = false) :
    openFound p ins ph = true ↔ ∃ before d rest, ins.down = before ++ d :: rest ∧ singleDrop p d ph = true
      ∧ (∀ b ∈ before, b.drop ph < d.drop ph) ∧ ∀ b ∈ rest, b.drop ph ≤ d.drop ph := by
  simp only [openFound, openForm_of_current h hs, Option.any_eq_true, highestDrop_eq_some]
  constructor
  · rintro ⟨d, ⟨before, rest, hds, hbefore, hrest⟩, hd⟩
    exact ⟨before, d, rest, hds, hd, hbefore, hrest⟩
  · rintro ⟨before, d, rest, hds, hd, hbefore, hrest⟩
    exact ⟨d, ⟨before, rest, hds, hbefore, hrest⟩, hd⟩

theorem arcFound_iff : arcFound ins ph = true
    ↔ (ins.up.channels.get ph).arcFlag = true ∧ ∀ d ∈ ins.down, (d.channels.get ph).arcFlag = false := by
  simp [arcFound]

theorem lostFound_iff : lostFound p ins ph = true ↔ ins.lossRunning = true ∧ p.dLost ≤ ins.up.drop ph := by
  simp [lostFound]

/-! ## The indications of an evaluation -/

/-- A phase's indications are those found with the excess that its record then holds (R66, R68). -/
theorem Evaluation.evaluate_indications (e : Evaluation) (p : ZoneProfile) (was : ZoneState) (now : Time)
    (ins : ZoneInputs) (ph : Phase) :
    ((e.evaluate p was now ins).perPhase.get ph).indications
      = indicationsOf p ins ph (upstreamLive p ins.up ph) ((e.evaluate p was now ins).perPhase.get ph).excess := by
  simp only [Evaluation.evaluate, PerPhase.get_of, evalPhase]

theorem indicationsOf_of_not_live (excess : Int) : indicationsOf p ins ph false excess = .none := rfl

theorem indicationsOf_of_live (excess : Int) : indicationsOf p ins ph true excess =
    { open_ := openFound p ins ph
      leak := decide ((p.leakThreshold : Int) ≤ excess)
      arc := arcFound ins ph
      motion := ins.motion.get ph
      lost := lostFound p ins ph } := rfl

end

/-- Settles O25: the tests one by one as equivalences, OPEN in the form that the list and the voltage sensing choose, and
the inputs as the records stand. -/
theorem indicationsFollowTheirTests : Obligations.IndicationsFollowTheirTests := by
  refine ⟨?_, ?_⟩
  · rintro e p was now ins ph y single rfl hsingle
    have single_iff : ∀ d, singleDrop p d ph = true ↔ single d := fun d => singleDrop_iff.trans (hsingle d).symm
    rw [Evaluation.evaluate_indications]
    refine ⟨fun hlive => ?_, fun hlive => ?_⟩
    · rw [hlive, indicationsOf_of_not_live]
    · rw [hlive, indicationsOf_of_live]
      refine ⟨fun hnil => ?_, fun hne hup hdown => openFound_of_sensing hne hup hdown, fun hne hs => ?_, decide_eq_true_iff,
        arcFound_iff, Iff.rfl, lostFound_iff⟩
      · rw [openFound_of_nil hnil]
        exact single_iff _
      · rw [openFound_of_current hne hs]
        simp only [single_iff, UnitView.drop]
  · rintro s x u r n ins hr hn rfl
    refine ⟨State.unit_of_some hr hn, List.length_map _, fun k b q m hb hq hm => ?_, fun ph => ?_, Iff.rfl⟩
    · simp [State.inputs, hb, State.unit_of_some hq hm]
    · simp only [State.inputs_motion_iff, mem_coveredSet, State.motionHeld_iff]
      constructor
      · rintro ⟨i, ⟨c, hc, hi⟩, m, hm, hheld⟩
        exact ⟨c, i, m, hc, hi, hm, hheld⟩
      · rintro ⟨c, i, m, hc, hi, hm, hheld⟩
        exact ⟨i, ⟨c, hc, hi⟩, m, hm, hheld⟩

end Sys2Proof.Machine

/-!
The channel processor in the forms its statements need: one step of an average as the truncated quotient (R47, R48), the arc
flag row by row (R52, R53), and a frame's current side by its case (R46, R47, R49, R50).
-/

namespace Sys2Proof.Machine

/-! ## The steps of a channel's values -/

/-- A truncated quotient is 0 or lies between 0 and its dividend, so a step never leads below the lower of its two ends
(R48). -/
theorem min_le_add_tdiv (old target : Int) {d : Int} (hd : 0 ≤ d) : min old target ≤ old + (target - old).tdiv d := by
  obtain hle | hlt := le_or_gt old target
  · have hrise : 0 ≤ (target - old).tdiv d := Int.tdiv_nonneg (by omega) hd
    omega
  · have hfall : (target - old).tdiv d = -((old - target).tdiv d) := by rw [← Int.neg_tdiv, neg_sub]
    have hsize : (old - target).tdiv d ≤ old - target := Int.tdiv_le_self _ (by omega)
    omega

/-- An average's step is the truncated quotient itself: the reading as a natural number cuts nothing off (R47, R48). -/
theorem averageStep_eq (k target old : Nat) :
    (averageStep k target old : Int) = old + ((target : Int) - old).tdiv (2 ^ k) := by
  have hlow := min_le_add_tdiv old target (d := 2 ^ k) (by positivity)
  exact Int.toNat_of_nonneg (le_trans (by omega) hlow)

theorem absDiff_eq_max (x y : Nat) : absDiff x y = max (x - y) (y - x) := by
  unfold absDiff
  omega

theorem voltageStep_eq (sensing absent : Bool) (v old : Nat) : voltageStep sensing absent v old
    = match sensing, absent with
      | false, _ => 0
      | true, false => v
      | true, true => old := by
  cases sensing
  · rfl
  · cases absent <;> rfl

/-! ## The arc flag (R52, R53) -/

section
variable {p : ChannelProfile} {run s : Nat}

theorem arcStep_of_clear : arcStep p false run s = (decide (p.sOn ≤ s), 0) := rfl

theorem arcStep_of_high (h : p.sOff ≤ s) : arcStep p true run s = (true, 0) := by
  simp [arcStep, h]

theorem arcStep_of_running (h : s < p.sOff) (hrun : run + 1 < p.arcReleaseCount) :
    arcStep p true run s = (true, run + 1) := by
  simp [arcStep, Nat.not_le.mpr h, Nat.not_le.mpr hrun]

theorem arcStep_of_released (h : s < p.sOff) (hrun : p.arcReleaseCount ≤ run + 1) :
    arcStep p true run s = (false, 0) := by
  simp [arcStep, Nat.not_le.mpr h, hrun]

end

/-! ## A frame's current side -/

namespace Channel

variable {c : Channel} {p : ChannelProfile} {m : Measure}

theorem current_of_unseeded {saturated : Bool} (h : c.seeded = false) : c.current p saturated m = c.seed saturated m := by
  simp [current, h]

theorem current_of_saturated (h : c.seeded = true) : c.current p true m = { c with saturated := true } := by
  simp [current, h]

theorem current_of_clean (h : c.seeded = true) : c.current p false m = c.step p m := by
  simp [current, h]

theorem step_score : (c.step p m).score
    = min 65535 (c.score - c.score / 2 ^ p.kl + min (max (m.h - c.hPrev) (c.hPrev - m.h)) p.hCap) := by
  simp only [step, scoreStep, absDiff_eq_max]

/-! ## The channel after a frame -/

variable {sensing absent : Bool}

/-- An ordinary frame at a clean phase steps the current side (R44). -/
theorem take_of_clean (h : c.seeded = true) : c.take p sensing absent false m
    = { c.step p m with iLast := m.i, hLast := m.h, vLast := voltageStep sensing absent m.v c.vLast } := by
  rw [take, current_of_clean h]

/-- At a clean frame the arc flag and its run are those of the table (R52, R53), whichever row applies. -/
theorem take_clean_arc {flag : Bool} {run : Nat} (h : c.seeded = true)
    (harc : arcStep p c.arcFlag c.arcRun (c.take p sensing absent false m).score = (flag, run)) :
    (c.take p sensing absent false m).arcFlag = flag ∧ (c.take p sensing absent false m).arcRun = run := by
  rw [take_of_clean h] at harc ⊢
  exact Prod.mk.inj harc

end Channel

/-- Settles O24: a frame by the case of its current side, the arc flag by the rows of its table, the voltage alike in all
cases. -/
theorem framesSeedStepOrHoldTheChannel : Obligations.FramesSeedStepOrHoldTheChannel := by
  refine ⟨fun c p sensing absent saturated m h => ?seeding, fun c p sensing absent m h => ⟨?held, ?stepped⟩,
    fun c t p sensing absent m h ht => ?arc, fun c p sensing absent saturated m => voltageStep_eq _ _ _ _⟩
  case seeding =>
    rw [Channel.take, Channel.current_of_unseeded h]
    rfl
  case held =>
    simp only [Channel.take, Channel.current_of_saturated h]
  case stepped =>
    rw [Channel.take_of_clean h]
    exact ⟨rfl, rfl, rfl, rfl, h, mod_cast averageStep_eq .., mod_cast averageStep_eq .., Channel.step_score⟩
  case arc =>
    subst ht
    refine ⟨fun hclear => ?_, fun hset hhigh => ?_, fun hset hlow hrun => ?_, fun hset hlow hrun => ?_⟩
    · exact Channel.take_clean_arc h (by rw [hclear, arcStep_of_clear])
    · exact Channel.take_clean_arc h (by rw [hset, arcStep_of_high hhigh])
    · exact Channel.take_clean_arc h (by rw [hset, arcStep_of_running hlow hrun])
    · exact Channel.take_clean_arc h (by rw [hset, arcStep_of_released hlow hrun])

end Sys2Proof.Machine

/-!
The grace expiry (R98): a blind trip by each part of the state that it writes.
-/

namespace Sys2Proof.Machine

/-! ## The entry that a raise leaves (R107, R108) -/

/-- After a raise the zone has an entry of the kind raised, with the reason its record carries. -/
theorem State.exists_mem_verdicts_raise {s : State} {z : Nat} {r : NodeRec} {x : Zone} (kind : VerdictKind)
    (hr : s.active.position? z = some r) (hx : s.zone? z = some x) :
    ∃ v ∈ (s.raise z kind).verdicts, v.zone = z ∧ v.kind = kind ∧ v.reason = x.run.reason := by
  obtain ⟨v, hv, old, rfl⟩ := mem_raiseInto_self (verdictEntry s.now z r x kind) s.verdicts
  exact ⟨_, by rwa [State.raise_of_some kind hr hx], rfl, rfl, rfl⟩

/-! ## A blind trip (R98) -/

theorem State.zone?_blindTrip (s : State) (z y : Nat) :
    (s.blindTrip z).zone? y = if y = z then (s.zone? y).map fun x => { x with run := x.run.blinded } else s.zone? y :=
  s.zone?_modRun z y ZoneRecord.blinded

/-- The entry is raised after the record is written, so it carries the reason BLIND. -/
theorem State.exists_mem_verdicts_blindTrip {s : State} {z : Nat} {r : NodeRec} {x : Zone}
    (hr : s.active.position? z = some r) (hx : s.zone? z = some x) :
    ∃ v ∈ (s.blindTrip z).verdicts, v.zone = z ∧ v.kind = .trip ∧ v.reason = some .blind := by
  have hblind : (s.modRun z ZoneRecord.blinded).zone? z = some { x with run := x.run.blinded } := by
    simp [State.zone?_modRun, hx]
  exact State.exists_mem_verdicts_raise (s := s.modRun z ZoneRecord.blinded) .trip hr hblind

theorem execGraceExpiry_of_due {s : State} {z : Nat} {x : Zone} (hx : s.zone? z = some x)
    (hdue : due s.now x.run.graceDeadline) (hstate : x.run.state = .degraded) :
    execGraceExpiry z s = .next (s.blindTrip z) := by
  simp [execGraceExpiry, hx, hdue, hstate]

/-- Settles O34: the expiry is a blind trip, which writes the zone's record, raises from that record, and recomputes the
lines last. -/
theorem graceExpiryTripsBlind : Obligations.GraceExpiryTripsBlind := by
  intro s z x r hx hr hdue hstate
  have hexec : exec (.graceExpiry z) s = .next (s.blindTrip z) := execGraceExpiry_of_due hx hdue hstate
  have hzone : (s.blindTrip z).zone? z = some { x with run := x.run.blinded } := by simp [State.zone?_blindTrip, hx]
  have hothers : ∀ y, y ≠ z → (s.blindTrip z).zone? y = s.zone? y := fun y hy => by simp [State.zone?_blindTrip, hy]
  exact ⟨s.blindTrip z, hexec, s.blindTrip_outside z, rfl, rfl, hzone, hothers,
    State.exists_mem_verdicts_blindTrip hr hx, State.recomputeLines_linesFollow _⟩

end Sys2Proof.Machine

/-!
Verdict output: a raise into the queue (R107, R108), and the lines that a recomputation leaves (R112 to R114, R117, R178).
-/

namespace Sys2Proof.Machine

/-! ## A raise (R107, R108) -/

/-- Settles O35: a raise puts the zone's snapshot into the queue, which has an entry of the zone or has none. -/
theorem raiseCoalescesIntoOneEntry : Obligations.RaiseCoalescesIntoOneEntry := by
  intro s t z r x kind v hx hr ht hv
  have hsnapshot : v = verdictEntry s.now z r x kind := hv
  have hzone : v.zone = z := by rw [hv]
  have hraise : t = { s with verdicts := raiseInto v s.verdicts } := by
    rw [ht, hsnapshot, State.raise_of_some kind hr hx]
  subst hraise
  refine ⟨rfl, fun habsent => ?absent, fun before rest e hqueue he hbefore => ?waiting⟩
  case absent => exact raiseInto_of_absent (hzone ▸ habsent)
  case waiting =>
    have hupdated : raiseInto v (before ++ e :: rest) = before ++ { v with history := e.history ||| v.history } :: rest :=
      raiseInto_of_present (he.trans hzone.symm) (hzone ▸ hbefore)
    rw [← hupdated, ← hqueue]

/-! ## Demand, policy and pulse (R112, R113, R117) -/

theorem Zone.isTripped_iff {x : Zone} : x.isTripped = true ↔ x.run.state = .tripped ∨ x.run.state = .lockout :=
  decide_eq_true_iff

theorem NodeRec.namesLine_iff {r : NodeRec} {l : Fin 4} :
    r.namesLine l = true ↔ ∃ part, r.zonePart = some part ∧ part.tripMask.getLsbD l = true :=
  Option.any_eq_true ..

theorem State.pulseOn_iff {s : State} {l : Fin 4} :
    s.pulseOn l = true ↔ s.proof.state = .pulseRunning ∧ s.proof.target = some l.val :=
  decide_eq_true_iff

/-- The demand in the fields of the records: a zone's state, and the trip mask of its record's zone part (R113). -/
theorem State.demanded_iff_tripMask (s : State) (l : Fin 4) :
    s.demanded l = true ↔ ∃ z r x part, s.active.position? z = some r ∧ s.zone? z = some x
      ∧ (x.run.state = .tripped ∨ x.run.state = .lockout) ∧ r.zonePart = some part ∧ part.tripMask.getLsbD l = true := by
  simp only [State.demanded_iff, Zone.isTripped_iff, NodeRec.namesLine_iff, exists_and_left]

theorem State.policyCondition_iff (s : State) (l : Fin 4) :
    s.policyCondition l = true ↔
      (s.active.header.policies.get l = .direct ∧ s.demanded l = true)
        ∨ (s.active.header.policies.get l = .backup ∧ s.demanded l = true ∧ s.presence = .absent) := by
  cases hpolicy : s.active.header.policies.get l <;> simp [State.policyCondition, hpolicy]

/-! ## A recomputation (R114, R178) -/

theorem State.recomputeLines_get_iff (s : State) (l : Fin 4) :
    s.recomputeLines.lines.get l = true ↔ s.policyCondition l = true ∨ s.pulseOn l = true := by
  simp [State.recomputeLines]

@[simp] theorem mem_four (l : Fin 4) : l ∈ four := List.mem_finRange l

/-- The mark is set where the line under the pulse meets its policy condition, and a mark that is set stays (R178). -/
theorem State.recomputeLines_takenOver_iff (s : State) :
    s.recomputeLines.proof.takenOver = true ↔ s.proof.takenOver = true
      ∨ ∃ l, s.pulseOn l = true ∧ s.policyCondition l = true := by
  simp [State.recomputeLines]

/-- Settles O36: demand, policy condition and pulse, each read from the fields it depends on, decide line and mark. -/
theorem lineIsAssertedByPolicyOrPulse : Obligations.LineIsAssertedByPolicyOrPulse := by
  intro s l demand hdemand
  have hdemanded : s.demanded l = true ↔ demand := (s.demanded_iff_tripMask l).trans hdemand.symm
  have hpolicy := s.policyCondition_iff l
  rw [hdemanded] at hpolicy
  refine ⟨hpolicy, ?line, s.recomputeLines_eq, ?mark⟩
  case line => rw [s.recomputeLines_get_iff, hpolicy, State.pulseOn_iff, or_assoc]
  case mark => simp only [s.recomputeLines_takenOver_iff, State.pulseOn_iff, and_assoc]

end Sys2Proof.Machine

/-!
The configuration store (R153 to R156): a node record's bytes and the record they stand for, field by field, then LOAD NODE,
CLEAR STAGED and READ TABLE.
-/

namespace Sys2Proof.Machine

/-! ## The fields of a node record (section 9.2): a field is read from a byte exactly where the byte is the one written -/

theorem flagOf_eq_some {b : Byte} {x : Bool} : flagOf b = some x ↔ flagByte x = b := by
  constructor
  · intro h
    unfold flagOf at h
    cases x <;> grind [flagByte]
  · rintro rfl
    cases x <;> rfl

theorem roleOf_eq_some {b : Byte} {r : Role} : roleOf b = some r ↔ r.code = b := by
  constructor
  · intro h
    unfold roleOf at h
    cases r <;> grind [Role.code]
  · rintro rfl
    cases r <;> rfl

theorem byteOf_eq_iff {n : Nat} {b : Byte} (h : n < 256) : byteOf n = b ↔ b.toNat = n := by
  constructor
  · rintro rfl
    exact toNat_byteOf h
  · rintro rfl
    exact byteOf_toNat b

theorem finOf_eq_some {n : Nat} {b : Byte} {k : Fin n} (hn : n ≤ 256) : finOf n b = some k ↔ byteOf k = b := by
  rw [byteOf_eq_iff (k.isLt.trans_le hn)]
  refine ⟨fun h => ?_, finOf_of_eq⟩
  unfold finOf at h
  split at h
  case isTrue => exact congrArg Fin.val (Option.some.inj h)
  case isFalse => cases h

/-- 0xFF is no index of a record, so none and an index are told apart. -/
theorem indexOf_eq_some {b : Byte} {i : Option Nat} :
    indexOf b = some i ↔ indexByte i = b ∧ i.all (· < Config.nodeCount) = true := by
  constructor
  · intro h
    unfold indexOf at h
    split at h
    case isTrue hnone => cases h; exact ⟨hnone.symm, rfl⟩
    case isFalse =>
      obtain ⟨hlt, hi⟩ := Option.ite_none_right_eq_some.mp h
      cases hi
      exact ⟨byteOf_toNat b, decide_eq_true hlt⟩
  · rintro ⟨rfl, hlt⟩
    cases i with
    | none => rfl
    | some n =>
      have hn : n < 48 := of_decide_eq_true hlt
      have hbyte : (byteOf n).toNat = n := toNat_byteOf (by omega)
      have hne : byteOf n ≠ 0xFF := fun h => by rw [h] at hbyte; simp at hbyte; omega
      simp only [indexOf, indexByte, if_neg hne, hbyte, Config.nodeCount, if_pos hn]

/-- A trip mask is read from a byte whose bits 4 to 7 are zero. -/
theorem tripMask_eq_iff {m : Byte} {k : BitVec 4} : (m.toNat < 16 ∧ m.setWidth 4 = k) ↔ k.setWidth 8 = m := by
  constructor
  · rintro ⟨hm, rfl⟩
    bv_omega
  · rintro rfl
    have hk := k.isLt
    exact ⟨by bv_omega, by bv_omega⟩

/-- A zone part fits a role: a TWIN has none, a HEAD or NODE has one (R152). -/
def partFits (role : Role) (part : Option ZonePart) : Prop := part.isSome = true ↔ role ≠ .twin

theorem parseZonePart_of_twin {s h m : Byte} {part : Option ZonePart} :
    parseZonePart .twin s h m = some part ↔ part = none ∧ encodeZonePart part = [s, h, m] := by
  constructor
  · intro hp
    obtain ⟨⟨rfl, rfl, rfl⟩, hpart⟩ := Option.ite_none_right_eq_some.mp hp
    cases hpart
    exact ⟨rfl, rfl⟩
  · rintro ⟨rfl, hbytes⟩
    cases hbytes
    rfl

theorem parseZonePart_of_ne_twin {role : Role} {s h m : Byte} (hrole : role ≠ .twin) :
    parseZonePart role s h m = (finOf 16 s).bind fun s' => (finOf 16 h).bind fun h' =>
      if m.toNat < 16 then some (some ⟨s', h', m.setWidth 4⟩) else none := by
  cases role
  case twin => exact absurd rfl hrole
  all_goals rfl

/-- The three bytes of a zone part are read as the part that writes them, where the part fits the role (R154). -/
theorem parseZonePart_eq_some {role : Role} {s h m : Byte} {part : Option ZonePart} :
    parseZonePart role s h m = some part ↔ partFits role part ∧ encodeZonePart part = [s, h, m] := by
  by_cases hrole : role = .twin
  · subst hrole
    rw [parseZonePart_of_twin]
    simp [partFits]
  · rw [parseZonePart_of_ne_twin hrole]
    simp only [Option.bind_eq_some_iff, Option.ite_none_right_eq_some, Option.some.injEq,
      finOf_eq_some (by decide : 16 ≤ 256)]
    constructor
    · rintro ⟨s', rfl, h', rfl, hm, rfl⟩
      exact ⟨by simp [partFits, hrole], by simp [encodeZonePart, tripMask_eq_iff.mp ⟨hm, rfl⟩]⟩
    · rintro ⟨hfits, hbytes⟩
      obtain ⟨⟨s', h', k⟩, rfl⟩ := Option.isSome_iff_exists.mp (hfits.mpr hrole)
      cases hbytes
      obtain ⟨hm, hk⟩ := tripMask_eq_iff.mpr (rfl : k.setWidth 8 = _)
      exact ⟨s', rfl, h', rfl, hm, by rw [hk]⟩

/-! ## A node record's thirteen bytes (R153, R154) -/

theorem NodeRec.encode_length (r : NodeRec) : r.encode.length = 13 := by
  cases hpart : r.zonePart <;> simp [NodeRec.encode, encodeZonePart, hpart]

/-- What the ranges of 9.2 say of the fields that may be absent. -/
theorem NodeRec.fields_of_inRange {r : NodeRec} (h : r.inRange = true) :
    r.parent.all (· < Config.nodeCount) = true ∧ r.twin.all (· < Config.nodeCount) = true ∧ partFits r.role r.zonePart := by
  simp only [NodeRec.inRange, Bool.and_eq_true] at h
  obtain ⟨⟨⟨-, hparent⟩, htwin⟩, hrole⟩ := h
  refine ⟨hparent, htwin, ?_⟩
  unfold partFits
  split at hrole <;> simp_all

/-- A present record is read exactly from the bytes that write it, whatever the byte in the place of the present byte. -/
theorem parsePresentNode_eq_some {p a f ro pa tw vs cp ar ab s h m : Byte} {r : NodeRec} :
    parsePresentNode [p, a, f, ro, pa, tw, vs, cp, ar, ab, s, h, m] = some r
      ↔ r.encode = [1, a, f, ro, pa, tw, vs, cp, ar, ab, s, h, m] ∧ r.inRange = true := by
  simp only [parsePresentNode, byteAt, List.getD_cons_zero, List.getD_cons_succ, bind, Option.bind_eq_some_iff,
    finOf_eq_some (by decide : 4 ≤ 256), roleOf_eq_some, indexOf_eq_some, flagOf_eq_some,
    finOf_eq_some (by decide : 8 ≤ 256), parseZonePart_eq_some, Option.ite_none_right_eq_some]
  constructor
  · rintro ⟨_, rfl, _, rfl, _, ⟨rfl, -⟩, _, ⟨rfl, -⟩, _, rfl, _, rfl, _, rfl, _, rfl, _, ⟨-, hpart⟩, hrange, hr⟩
    cases hr
    exact ⟨by simp [NodeRec.encode, hpart], hrange⟩
  · rintro ⟨hbytes, hrange⟩
    obtain ⟨hparent, htwin, hfits⟩ := NodeRec.fields_of_inRange hrange
    simp only [NodeRec.encode, List.cons_append, List.nil_append, List.cons.injEq] at hbytes
    obtain ⟨-, haddress, hfeeder, hrole, hpar, htw, hsensing, hprofile, hreturn, hbar, hpart⟩ := hbytes
    exact ⟨_, hfeeder, _, hrole, _, ⟨hpar, hparent⟩, _, ⟨htw, htwin⟩, _, hsensing, _, hprofile, _, hreturn, _, hbar, _,
      ⟨hfits, hpart⟩, haddress ▸ hrange, haddress ▸ rfl⟩

/-- A record is read as present exactly from the bytes that write it, when it is in range for its role (R154). -/
theorem parseNode_eq_present {bytes : List Byte} {r : NodeRec} :
    parseNode bytes = some (some r) ↔ r.encode = bytes ∧ r.inRange = true := by
  by_cases hlength : bytes.length = 13
  · match bytes, hlength with
    | [p, a, f, ro, pa, tw, vs, cp, ar, ab, s, h, m], _ =>
      by_cases hp : p = 1
      · subst hp
        rw [← parsePresentNode_eq_some (p := 1)]
        simp [parseNode, byteAt]
      · have hencode : r.encode ≠ [p, a, f, ro, pa, tw, vs, cp, ar, ab, s, h, m] := fun he =>
          hp (List.head_eq_of_cons_eq he).symm
        simp only [hencode, false_and, iff_false]
        intro hparse
        simp only [parseNode, byteAt, List.getD_cons_zero, if_neg hp] at hparse
        split at hparse <;> split at hparse <;> cases hparse
  · have hparse : parseNode bytes = none := if_neg hlength
    have hencode : r.encode ≠ bytes := fun he => hlength (he ▸ r.encode_length)
    simp [hparse, hencode]

/-- A record is read as absent from present 0 and any twelve bytes (R154). -/
theorem parseNode_eq_absent {bytes : List Byte} :
    parseNode bytes = some none ↔ ∃ rest, bytes = 0 :: rest ∧ rest.length = 12 := by
  cases bytes with
  | nil => simp [parseNode]
  | cons p rest =>
    by_cases hlength : rest.length = 12 <;> by_cases hp : p = 0 <;> simp [parseNode, byteAt, hlength, hp]

/-- Bytes that write no record in range and are not present 0 with twelve more are no node record (R154). -/
theorem parseNode_eq_none {bytes : List Byte} (hpresent : ∀ r : NodeRec, r.inRange → r.encode ≠ bytes)
    (habsent : ∀ rest, bytes = 0 :: rest → rest.length ≠ 12) : parseNode bytes = none := by
  cases hparse : parseNode bytes with
  | none => rfl
  | some record =>
    cases record with
    | none =>
      obtain ⟨rest, hbytes, hlength⟩ := parseNode_eq_absent.mp hparse
      exact absurd hlength (habsent rest hbytes)
    | some r =>
      obtain ⟨hencode, hrange⟩ := parseNode_eq_present.mp hparse
      exact absurd hencode (hpresent r hrange)

/-! ## LOAD NODE and CLEAR STAGED (R153 to R155) -/

theorem numbered_of_lt {n : Nat} {i : Byte} {bytes : List Byte} (h : i.toNat < n) :
    numbered n (i :: bytes) = some (i.toNat, bytes) := if_pos h

theorem numbered_of_le {n : Nat} {i : Byte} {bytes : List Byte} (h : n ≤ i.toNat) : numbered n (i :: bytes) = none :=
  if_neg (Nat.not_lt.mpr h)

section
variable {s : State} {tag i : Byte} {bytes : List Byte}

/-- LOAD NODE of a record that is read, absent or present (R154). -/
theorem execLoadNode_of_parsed {r : Option NodeRec} (htake : s.CanTake) (hi : i.toNat < Config.nodeCount)
    (hr : parseNode bytes = some r) :
    execLoadNode tag (i :: bytes) s
      = .next (State.answer { s with staged := { s.staged with nodes := s.staged.nodes.set i.toNat r } }
          0x11 tag .done []) := by
  obtain ⟨hroom, hproof⟩ := htake
  exact congrArg Host.Outcome.next
    (State.takeCommand_of_answer hroom (by simp [numbered_of_lt hi, hr, done, State.modStaged]) hproof)

/-- LOAD NODE refused: the index is out of range, or no record is read (R153, R154). -/
theorem execLoadNode_of_refused (htake : s.CanTake) (h : Config.nodeCount ≤ i.toNat ∨ parseNode bytes = none) :
    execLoadNode tag (i :: bytes) s = .next (s.answer 0x11 tag .badParam []) := by
  have hnone : ((numbered Config.nodeCount (i :: bytes)).bind fun ib => (parseNode ib.2).map fun r => (ib.1, r)) = none := by
    obtain hi | hparse := h
    · simp [numbered_of_le hi]
    · by_cases hi : i.toNat < Config.nodeCount
      · simp [numbered_of_lt hi, hparse]
      · simp [numbered_of_le (Nat.le_of_not_lt hi)]
  exact congrArg Host.Outcome.next (State.takeCommand_of_refusal htake (by simp only [hnone]))

theorem execClearStaged_nil (htake : s.CanTake) :
    execClearStaged tag [] s = .next (State.answer { s with staged := .empty } 0x14 tag .done []) := by
  obtain ⟨hroom, hproof⟩ := htake
  exact congrArg Host.Outcome.next (State.takeCommand_of_answer hroom rfl hproof)

end

/-- Settles O6: what LOAD NODE does with the bytes after the index is decided by the record they are read as. -/
theorem loadNodeAndClearStagedSetTheStagedRecords : Obligations.LoadNodeAndClearStagedSetTheStagedRecords := by
  refine ⟨fun s tag i bytes htake => ⟨fun r hi hrange hencode => ?present, fun rest hi hbytes hlength => ?absent,
    fun h => ?refused⟩, fun s tag htake => execClearStaged_nil htake⟩
  case present => exact execLoadNode_of_parsed htake hi (parseNode_eq_present.mpr ⟨hencode, hrange⟩)
  case absent => exact execLoadNode_of_parsed htake hi (parseNode_eq_absent.mpr ⟨rest, hbytes, hlength⟩)
  case refused =>
    exact execLoadNode_of_refused htake (h.imp_right fun ⟨hpresent, habsent⟩ => parseNode_eq_none hpresent habsent)

/-! ## READ TABLE (R156) -/

theorem State.copy_of_two_le {s : State} {b : Byte} (h : 2 ≤ b.toNat) : s.copy b = none := by
  have hzero : b ≠ 0 := fun hb => by simp [hb] at h
  have hone : b ≠ 1 := fun hb => by simp [hb] at h
  simp only [State.copy, if_neg hzero, if_neg hone]

section
variable {t : Tables} {item index : Byte}

theorem Tables.item_header : t.item 0 0 = some t.header.encode := rfl

theorem Tables.item_header_of_ne (h : index ≠ 0) : t.item 0 index = none := if_neg h

theorem Tables.item_node (h : index.toNat < Config.nodeCount) :
    t.item 1 index = some (encodeNode (t.node? index.toNat)) := if_pos h

theorem Tables.item_node_of_le (h : Config.nodeCount ≤ index.toNat) : t.item 1 index = none := if_neg (Nat.not_lt.mpr h)

theorem Tables.item_zoneProfile : t.item 2 index = (finOf 16 index).map fun n => (t.zoneProfile n).encode := rfl

theorem Tables.item_channelProfile : t.item 3 index = (finOf 8 index).map fun n => (t.channelProfile n).encode := rfl

theorem Tables.item_of_four_le (h : 4 ≤ item.toNat) : t.item item index = none := by
  have hne (k : Byte) (hk : k.toNat < 4) : item ≠ k := fun hi => by rw [hi] at h; omega
  simp only [Tables.item, if_neg (hne 0 (by decide)), if_neg (hne 1 (by decide)), if_neg (hne 2 (by decide)),
    if_neg (hne 3 (by decide))]

end

section
variable {s : State} {tag copy item index : Byte} {t : Tables}

theorem execReadTable_of_record {bytes : List Byte} (htake : s.CanTake) (hcopy : s.copy copy = some t)
    (hitem : t.item item index = some bytes) :
    execReadTable tag [copy, item, index] s = .next (s.answer 0x15 tag .done (copy :: item :: index :: bytes)) := by
  obtain ⟨hroom, hproof⟩ := htake
  exact congrArg Host.Outcome.next (State.takeCommand_of_answer hroom (by simp [hcopy, hitem, done]) hproof)

theorem execReadTable_of_none (htake : s.CanTake) (h : (s.copy copy).bind (fun t => t.item item index) = none) :
    execReadTable tag [copy, item, index] s = .next (s.answer 0x15 tag .badParam []) :=
  congrArg Host.Outcome.next (State.takeCommand_of_refusal htake (by simp only [h]))

end

/-- Settles O8: the reply is decided by the copy that the first byte names and by what that copy holds at item and index. -/
theorem readTableReturnsTheNamedRecord : Obligations.ReadTableReturnsTheNamedRecord := by
  intro s tag copy item index t htake hnamed
  have hcopy : s.copy copy = some t := by
    obtain ⟨rfl, rfl⟩ | ⟨rfl, rfl⟩ := hnamed <;> rfl
  have record {bytes : List Byte} (hitem : t.item item index = some bytes) :
      exec (.readTable tag [copy, item, index]) s = .next (s.answer 0x15 tag .done (copy :: item :: index :: bytes)) :=
    execReadTable_of_record htake hcopy hitem
  refine ⟨?header, ?node, fun n hitem hn => ?zoneProfile, fun n hitem hn => ?channelProfile, fun h => ?outOfRange,
    fun other hother => ?otherCopy⟩
  case header => rintro rfl rfl; exact record Tables.item_header
  case node => rintro rfl hi; exact record (Tables.item_node hi)
  case zoneProfile => subst hitem; exact record (by rw [Tables.item_zoneProfile, finOf_of_eq hn]; rfl)
  case channelProfile => subst hitem; exact record (by rw [Tables.item_channelProfile, finOf_of_eq hn]; rfl)
  case outOfRange =>
    have hnone : t.item item index = none := by
      obtain hitem | ⟨rfl, hi⟩ | ⟨rfl, hi⟩ | ⟨rfl, hi⟩ | ⟨rfl, hi⟩ := h
      · exact Tables.item_of_four_le hitem
      · exact Tables.item_header_of_ne hi
      · exact Tables.item_node_of_le hi
      · rw [Tables.item_zoneProfile, finOf_of_le hi]; rfl
      · rw [Tables.item_channelProfile, finOf_of_le hi]; rfl
    exact execReadTable_of_none htake (by simp [hcopy, hnone])
  case otherCopy => exact execReadTable_of_none htake (by simp [State.copy_of_two_le hother])

end Sys2Proof.Machine

/-!
The values of a channel stay in their ranges (R42, R48): an average stays between its two ends, the arc release run below
its count; and the drop ratio is a share in thousandths (R54).
-/

namespace Sys2Proof.Machine

/-! ## The steps of a channel's values -/

/-- A step never leads above the higher of its two ends (R48). -/
theorem add_tdiv_le_max (old target : Int) {d : Int} (hd : 0 ≤ d) : old + (target - old).tdiv d ≤ max old target := by
  have hmirror := min_le_add_tdiv (-old) (-target) hd
  have hneg : (-target - -old).tdiv d = -((target - old).tdiv d) := by rw [← Int.neg_tdiv]; congr 1; omega
  omega

theorem averageStep_le {k target old top : Nat} (ht : target ≤ top) (ho : old ≤ top) : averageStep k target old ≤ top := by
  have hstep := averageStep_eq k target old
  have hhigh := add_tdiv_le_max old target (d := 2 ^ k) (by positivity)
  omega

theorem arcStep_run_le {p : ChannelProfile} {flag : Bool} {run s top : Nat} (hp : p.arcReleaseCount ≤ top) :
    (arcStep p flag run s).2 ≤ top := by
  unfold arcStep
  split
  · split
    · exact Nat.zero_le _
    · split
      · exact Nat.zero_le _
      · exact (Nat.le_of_not_le ‹_›).trans hp
  · exact Nat.zero_le _

theorem voltageStep_le {sensing absent : Bool} {v old top : Nat} (hv : v ≤ top) (ho : old ≤ top) :
    voltageStep sensing absent v old ≤ top := by
  unfold voltageStep
  split
  · split <;> assumption
  · exact Nat.zero_le _

theorem ChannelProfile.arcReleaseCount_le {p : ChannelProfile} (h : p.inRange = true) : p.arcReleaseCount ≤ 64 := by
  simp only [ChannelProfile.inRange, within, Bool.and_eq_true, decide_eq_true_eq] at h
  omega

/-! ## The channel -/

namespace Channel

variable {c : Channel} {p : ChannelProfile} {m : Measure}

theorem seed_inBounds (h : c.InBounds) (saturated : Bool) (hi : m.i ≤ 65535) (hh : m.h ≤ 65535) :
    (c.seed saturated m).InBounds where
  iLast := h.iLast
  vLast := h.vLast
  hLast := h.hLast
  hPrev := hh
  iFast16 := by show 16 * m.i ≤ 1048560; omega
  iSlow16 := by show 16 * m.i ≤ 1048560; omega
  score := Nat.zero_le _
  arcRun := Nat.zero_le _

theorem step_inBounds (h : c.InBounds) (hp : p.inRange = true) (hi : m.i ≤ 65535) (hh : m.h ≤ 65535) :
    (c.step p m).InBounds where
  iLast := h.iLast
  vLast := h.vLast
  hLast := h.hLast
  hPrev := hh
  iFast16 := averageStep_le (by omega) h.iFast16
  iSlow16 := averageStep_le (by omega) h.iSlow16
  score := Nat.min_le_left _ _
  arcRun := arcStep_run_le (ChannelProfile.arcReleaseCount_le hp)

theorem current_inBounds (h : c.InBounds) (hp : p.inRange = true) (saturated : Bool) (hi : m.i ≤ 65535)
    (hh : m.h ≤ 65535) : (c.current p saturated m).InBounds := by
  unfold current
  split
  · exact seed_inBounds h saturated hi hh
  · split
    · exact { h with }
    · exact step_inBounds h hp hi hh

/-- Every frame keeps a channel's values in their ranges (R48). -/
theorem take_inBounds (h : c.InBounds) (hp : p.inRange = true) (sensing absent saturated : Bool) (hi : m.i ≤ 65535)
    (hv : m.v ≤ 65535) (hh : m.h ≤ 65535) : (c.take p sensing absent saturated m).InBounds :=
  { current_inBounds h hp saturated hi hh with
    iLast := hi
    vLast := voltageStep_le hv h.vLast
    hLast := hh }

end Channel

/-! ## The drop ratio (R54) -/

theorem dropRatio_of_flat {iMin : Nat} {c : Channel} (h : c.iSlow16 < 16 * iMin ∨ c.iSlow16 ≤ c.iFast16) :
    dropRatio iMin c = 0 := if_neg (by omega)

theorem dropRatio_of_drop {iMin : Nat} {c : Channel} (hmin : 16 * iMin ≤ c.iSlow16) (hlt : c.iFast16 < c.iSlow16) :
    dropRatio iMin c = 1000 * (c.iSlow16 - c.iFast16) / c.iSlow16 := if_pos ⟨hmin, hlt⟩

/-- A ratio of a drop is a share of the slow average: below 1000 while some current is left. -/
theorem dropRatio_le (iMin : Nat) (c : Channel) : dropRatio iMin c ≤ 1000 ∧ (dropRatio iMin c = 1000 → c.iFast16 = 0) := by
  by_cases h : 16 * iMin ≤ c.iSlow16 ∧ c.iFast16 < c.iSlow16
  · obtain ⟨hmin, hlt⟩ := h
    rw [dropRatio_of_drop hmin hlt]
    refine ⟨Nat.div_le_of_le_mul (by omega), fun hfull => ?_⟩
    by_contra hleft
    have : 1000 * (c.iSlow16 - c.iFast16) / c.iSlow16 < 1000 := (Nat.div_lt_iff_lt_mul (by omega)).mpr (by omega)
    omega
  · rw [dropRatio_of_flat (by omega)]
    exact ⟨by omega, fun h0 => absurd h0 (by decide)⟩

/-- Settles O26: each value of the channel by its own step, the ratio as a share of the slow average. -/
theorem channelStaysInRange : Obligations.ChannelStaysInRange :=
  ⟨fun _ _ sensing absent saturated _ hc hp hi hv hh => Channel.take_inBounds hc hp sensing absent saturated hi hv hh,
    fun iMin c => ⟨dropRatio_of_flat, dropRatio_of_drop, dropRatio_le iMin c⟩⟩

end Sys2Proof.Machine

/-!
Everything a command can do. `Did` says once, command by command, what the next state is made of: small steps that leave
proofs, lines and zone states alone, at most one event that moves a zone or the lines, a REPLY, and a completion that is
queued. The invariants of every step, and what stands until some command ends it, are read from it.
-/

namespace Sys2Proof.Machine

/-! ## Node records -/

/-- What an event may make of a node's record under its channel profile: numbers stay in range, and deadline, expectation
and bar reason keep fitting the state. -/
structure NodeStep (p : ChannelProfile) (n m : NodeRun) : Prop where
  bounds : p.inRange = true → n.InBounds → m.InBounds
  fits : n.Fits → m.Fits

theorem NodeStep.trans {p : ChannelProfile} {n m k : NodeRun} (h : NodeStep p n m) (g : NodeStep p m k) : NodeStep p n k :=
  ⟨fun hp hn => g.bounds hp (h.bounds hp hn), fun hn => g.fits (h.fits hn)⟩

theorem satAdd_le (top n k : Nat) : satAdd top n k ≤ top := Nat.min_le_left _ _

theorem Health.inRange_iff {h : Health} : h.inRange = true
    ↔ h.gaps ≤ 65535 ∧ h.stales ≤ 65535 ∧ h.silences ≤ 65535 ∧ h.saturations ≤ 65535 := by
  simp [Health.inRange, within, and_assoc]

/-- A record that is not BARRED holds no bar reason. -/
theorem NodeRun.Fits.barReason_of_ne {n : NodeRun} (h : n.Fits) (hs : n.state ≠ .barred) : n.barReason.isSome ≠ true :=
  fun hb => hs (h.barred.mp hb)

section
variable (p : ChannelProfile) (n : NodeRun)

theorem NodeRun.toWarming_step (now : Time) (hs : n.state ≠ .barred) : NodeStep p n (n.toWarming now p) where
  bounds _ hn :=
    ⟨fun ph => by simpa [NodeRun.toWarming] using { hn.channels ph with }, hn.health, Nat.zero_le _⟩
  fits hn := by
    have := hn.barReason_of_ne hs
    constructor <;> simp_all [NodeRun.toWarming]

theorem NodeRun.toBarred_step (reason : BarReason) : NodeStep p n (n.toBarred reason) where
  bounds _ hn := { hn with }
  fits _ := by constructor <;> simp [NodeRun.toBarred]

theorem NodeRun.admitted_step : NodeStep p n n.admitted where
  bounds _ hn := { hn with warmUp := Nat.zero_le _ }
  fits _ := by constructor <;> simp [NodeRun.admitted]

theorem NodeRun.toSilent_step (hs : n.state ≠ .barred) : NodeStep p n n.toSilent where
  bounds _ hn := by
    obtain ⟨gaps, stales, -, saturations⟩ := Health.inRange_iff.mp hn.health
    exact { hn with health := Health.inRange_iff.mpr ⟨gaps, stales, satAdd_le .., saturations⟩ }
  fits hn := by
    have := hn.barReason_of_ne hs
    constructor <;> simp_all [NodeRun.toSilent]

theorem NodeRun.checked_step (autoBar hit : Bool) : NodeStep p n (n.checked autoBar hit) := by
  have hflag : NodeStep p n { n with exceeded := true } := ⟨fun _ hn => { hn with }, fun hn => { hn with }⟩
  unfold NodeRun.checked
  split
  · split
    · exact hflag.trans (NodeRun.toBarred_step p _ _)
    · exact hflag
  · exact ⟨fun _ hn => hn, fun hn => hn⟩

theorem NodeRun.clearHealth_step : NodeStep p n n.clearHealth where
  bounds _ hn := { hn with health := rfl }
  fits hn := { hn with }

theorem NodeRun.motionHold_step (hold : PerPhase (Option Time)) : NodeStep p n { n with motionHold := hold } where
  bounds _ hn := { hn with }
  fits hn := { hn with }

theorem NodeRun.ident_step (now : Time) (r : NodeRec) (cls sensing fitted : Byte) :
    NodeStep p n (n.ident now r p cls sensing fitted) := by
  have hclass : NodeStep p n { n with unitClass := some cls } := ⟨fun _ hn => { hn with }, fun hn => { hn with }⟩
  unfold NodeRun.ident
  split
  · exact ⟨fun _ hn => hn, fun hn => hn⟩
  · split
    · split
      · exact hclass.trans (NodeRun.toWarming_step p _ now ‹_›)
      · exact hclass
    · exact hclass.trans (NodeRun.toBarred_step p _ _)

theorem NodeRun.health_step (h : Health) (hh : n.health.inRange = true → h.inRange = true) :
    NodeStep p n { n with health := h } where
  bounds _ hn := { hn with health := hh hn.health }
  fits hn := { hn with }

theorem NodeRun.stale_step (autoBar : Bool) : NodeStep p n (n.stale autoBar p) := by
  have hcount : NodeStep p n { n with health := { n.health with stales := satAdd 65535 n.health.stales 1 } } :=
    n.health_step p _ fun h => by
      obtain ⟨gaps, -, silences, saturations⟩ := Health.inRange_iff.mp h
      exact Health.inRange_iff.mpr ⟨gaps, satAdd_le .., silences, saturations⟩
  exact hcount.trans (NodeRun.checked_step p _ _ _)

theorem NodeRun.countFrame_step (autoBar : Bool) (d saturated : Nat) :
    NodeStep p n (n.countFrame autoBar p d saturated) := by
  have hcount : NodeStep p n { n with health := { n.health with
      gaps := satAdd 65535 n.health.gaps d, saturations := satAdd 65535 n.health.saturations saturated } } :=
    n.health_step p _ fun h => by
      obtain ⟨-, stales, silences, -⟩ := Health.inRange_iff.mp h
      exact Health.inRange_iff.mpr ⟨satAdd_le .., stales, silences, satAdd_le ..⟩
  exact hcount.trans (NodeRun.checked_step p _ _ _)

/-- The reports of a CYCLE payload are two-byte numbers (R121). -/
theorem cycleValues_le (payload : List Byte) (ph : Phase) : ((cycleValues payload).get ph).i ≤ 65535
    ∧ ((cycleValues payload).get ph).v ≤ 65535 ∧ ((cycleValues payload).get ph).h ≤ 65535 := by
  rw [cycleValues, PerPhase.get_of]
  exact ⟨u16_le _ _, u16_le _ _, u16_le _ _⟩

theorem takeChannels_inBounds {cs : PerPhase Channel} (hp : p.inRange = true) (h : ∀ ph, (cs.get ph).InBounds)
    (sensing : Bool) (payload : List Byte) (ph : Phase) : ((takeChannels p sensing payload cs).get ph).InBounds := by
  obtain ⟨hi, hv, hh⟩ := cycleValues_le payload ph
  rw [takeChannels, PerPhase.get_of]
  exact Channel.take_inBounds (h ph) hp _ _ _ hi hv hh

theorem NodeRun.acceptFrame_step (now : Time) (sensing : Bool) (fr : Frame) (hs : n.state = .warming ∨ n.state = .live) :
    NodeStep p n (n.acceptFrame now sensing p fr) where
  bounds hp hn := by
    have hchannels := takeChannels_inBounds p hp hn.channels sensing fr.payload
    unfold NodeRun.acceptFrame
    split
    · exact ⟨hchannels, hn.health, satAdd_le ..⟩
    · exact ⟨hchannels, hn.health, hn.warmUp⟩
  fits hn := by
    have hbar := hn.barReason_of_ne (by rcases hs with h | h <;> simp [h])
    unfold NodeRun.acceptFrame
    split
    · split <;> constructor <;> simp_all
    · constructor <;> simp_all

end

/-! ## Zone records -/

/-- What a timer or a limit may do to a zone: state, reason, evaluation results and topology stand, trips do not grow. -/
structure Zone.Quiet (x y : Zone) : Prop where
  topo : y.topo = x.topo
  state : y.run.state = x.run.state
  reason : y.run.reason = x.run.reason
  trips : y.run.trips ≤ x.run.trips
  evidence : y.eval.evidence = x.eval.evidence
  perPhase : y.eval.perPhase = x.eval.perPhase
  score : y.eval.score = x.eval.score
  faulted : y.eval.faulted = x.eval.faulted
  fits : x.run.Fits → y.run.Fits

/-! ## Staged tables -/

/-- What a load may do to the STAGED copy: every kind of record stays in range, in lists of their length. -/
structure StagedStep (t u : Tables) : Prop where
  header : t.header.inRange = true → u.header.inRange = true
  nodesLength : t.nodes.length = Config.nodeCount → u.nodes.length = Config.nodeCount
  nodes : t.nodes.all (·.all NodeRec.inRange) = true → u.nodes.all (·.all NodeRec.inRange) = true
  zonesLength : t.zoneProfiles.length = Config.zoneProfileCount → u.zoneProfiles.length = Config.zoneProfileCount
  zones : t.zoneProfiles.all ZoneProfile.inRange = true → u.zoneProfiles.all ZoneProfile.inRange = true
  channelsLength : t.channelProfiles.length = Config.channelProfileCount →
    u.channelProfiles.length = Config.channelProfileCount
  channels : t.channelProfiles.all ChannelProfile.inRange = true → u.channelProfiles.all ChannelProfile.inRange = true

/-! ## Small steps -/

/-- A step that leaves replies, proof, lines, presence, tables in use, usability and zone states alone. -/
inductive Small (s : State) : State → Prop where
  | stream (rxSensor rxController : Receiver) (limits : List Nat) (frames : List Frame) (deadline : Option Time) :
      Small s { s with
        rxSensor := rxSensor, rxController := rxController, awaitingPresence := limits, awaitingRouting := frames
        presenceDeadline := deadline }
  | counters (c : Counters) (h : (∀ k ∈ s.counters.toList, k ≤ 4294967295) → ∀ k ∈ c.toList, k ≤ 4294967295) :
      Small s { s with counters := c }
  | forward (f : Frame) (h : s.forwardFifo.length < Config.forwardCapacity) :
      Small s { s with forwardFifo := s.forwardFifo ++ [f] }
  | sensorNext : Small s s.sensorNext
  | staged (g : Tables → Tables) (h : StagedStep s.staged (g s.staged)) : Small s (s.modStaged g)
  | feeders (x : Four Feeder) : Small s { s with feeders := x }
  | setNode (i : Nat) (n m : NodeRun) (hn : s.node? i = some n) (h : ∀ p, NodeStep p n m) (hl : m.isLive = n.isLive) :
      Small s (s.setNode i m)
  | record (f : Fin 4) (r : CaptureRecord) : Small s (s.pushRecord f r)
  | trigger (f : Fin 4) (kind : TriggerKind) (subject : Option Nat) : Small s (s.raiseTrigger f kind subject)
  | quiet (z : Nat) (g : Zone → Zone) (h : ∀ x, s.zone? z = some x → x.Quiet (g x)) : Small s (s.modZone z g)
  | raise (z : Nat) (kind : VerdictKind) : Small s (s.raise z kind)

/-- Small steps one after another. -/
abbrev Smalls : State → State → Prop := Relation.ReflTransGen Small

/-! ## Events -/

/-- What the taking of a command leaves, before its REPLY and a completion that is queued. -/
inductive Effect (s : State) : Instr → State → Prop where
  | small {c : Instr} {t : State} (h : Smalls s t) : Effect s c t
  | changeNode {c : Instr} {t : State} {i : Nat} {r : NodeRec} {n m : NodeRun} (h : Smalls s t)
      (hr : t.active.node? i = some r) (hn : t.node? i = some n) (hstep : NodeStep (t.active.profileOf r) n m) :
      Effect s c (t.changeNode i r.feeder n m)
  | blindTrip {z : Nat} {x : Zone} (hx : s.zone? z = some x) (h : x.run.state = .degraded) :
      Effect s (.graceExpiry z) (s.blindTrip z)
  | presence {c : Instr} {t : State} {p : Presence} {d : Option Time} (h : Smalls s t) :
      Effect s c (State.recomputeLines { t with presence := p, presenceDeadline := d })
  | release {c : Instr} {tag i : Byte} {r : NodeRec} {x : Zone} {trips : Nat} {memory : Option Time}
      (hc : c = .releaseZone tag [i] ∨ c = .clearLockout tag [i]) (hr : s.active.position? i.toNat = some r)
      (hx : s.zone? i.toNat = some x) (ht : x.isTripped = true) (hle : trips ≤ x.run.trips) :
      Effect s c (s.release i.toNat trips memory)
  | free {tag b abort : Byte} {i : Fin 4} (hi : b.toNat = i.val) :
      Effect s (.freeCapture tag [b, abort]) { s with slots := s.slots.set i .empty }
  | proveZone {tag z mask : Byte} (h : s.proof.state = .none) (hz : s.provable z.toNat = true) :
      Effect s (.proveZone tag [z, mask]) { s with proof := zoneProof z.toNat (.ofMask mask) tag }
  | proveLine {tag : Byte} {params : List Byte} {l : Fin 4} {d : Time} (h : s.proof.state = .none) :
      Effect s (.proveLine tag params) (State.recomputeLines { s with proof := lineProof l d tag })
  | cancelZone {tag : Byte} {params : List Byte} (h : s.proof.state = .zonePending) :
      Effect s (.cancelProof tag params) (s.completeProof .cancelled [])
  | cancelPulse {tag : Byte} {params : List Byte} (h : s.proof.state = .pulseRunning) :
      Effect s (.cancelProof tag params) (s.completeProof .cancelled []).recomputeLines
  | activate {tag : Byte} (hv : s.staged.failure = none) (hd : s.droppedTripped = none) :
      Effect s (.activate tag []) s.activate

/-- Everything a command can do (R165, R179 for REPLY and completion). -/
inductive Did (s : State) : Instr → State → Prop where
  | hardReset {strap : BitVec 2} : Did s (.hardReset strap) { State.reset with strap := strap, pending := s.pending }
  | event {c : Instr} {t : State} (h : Effect s c t) (hp : t.proof = { s.proof with takenOver := t.proof.takenOver }) :
      Did s c t
  | flushed {c : Instr} {t : State} (h : Effect s c t) : Did s c t.flushHeld
  | answered {c : Instr} {t : State} {code tag : Byte} {status : Status} {data : List Byte}
      (room : s.replies.length < Config.replyCapacity) (h : Effect s c t) :
      Did s c (t.answer code tag status data).flushHeld
  | feederExpiry {f : Fin 4} : Did s (.feederEvaluationExpiry f) (s.feederExpiry f)
  | pulseExpiry {status : Status} (h : s.proof.state = .pulseRunning) :
      Did s .pulseExpiry ((s.completeProof status []).recomputeLines).flushHeld
  | transmit {c : Instr} : Did s c s.chooseNext
  | restart {tag : Byte} {params : List Byte} : Did s (.restartEngine tag params)
      (State.flushHeld { s.restart with
        replies := s.restart.replies ++ [⟨codeRestartEngine, tag, .done, []⟩, startedNotice 2] })
  | queued {f : Frame} {rest : List Frame} (hf : s.awaitingRouting = f :: rest)
      (room : s.sensorQueue.length < Config.sensorQueueCapacity) :
      Did s .controllerFrameRouting { s with awaitingRouting := rest, sensorQueue := s.sensorQueue ++ [f] }
  | routed {f : Frame} {rest : List Frame} {code tag : Byte} {params : List Byte} {t : State}
      (hf : s.awaitingRouting = f :: rest)
      (h : exec (commandOf code tag params) { s with awaitingRouting := rest } = .next t) : Did s .controllerFrameRouting t

end Sys2Proof.Machine

/-! Every command does what `Did` says: the node tracker, the receivers, then the commands one by one. -/

namespace Sys2Proof.Machine

/-! ## Changes of one node -/

theorem State.changeNode_of_isLive_eq {s : State} {i : Nat} {f : Fin 4} {n m : NodeRun} (h : n.isLive = m.isLive) :
    s.changeNode i f n m = s.setNode i m := if_pos h

theorem State.changeNode_of_isLive_ne {s : State} {i : Nat} {f : Fin 4} {n m : NodeRun} (h : n.isLive ≠ m.isLive) :
    s.changeNode i f n m = (s.setNode i m).recompute f := if_neg h

/-- Loss notices read no node record, so they may come before the node's own change. -/
theorem State.lossNotices_setNode (s : State) (i j : Nat) (m : NodeRun) (f : Fin 4) :
    (s.setNode i m).lossNotices f j = (s.lossNotices f j).setNode i m := by
  have key : ∀ (zs : List Nat) (t : State), zs.foldl State.noteLoss (t.setNode i m) = (zs.foldl State.noteLoss t).setNode i m := by
    intro zs
    induction zs with
    | nil => intro t; rfl
    | cons z zs ih => intro t; exact ih (t.noteLoss z)
  exact key _ s

theorem State.noteLoss_small (s : State) (z : Nat) : Small s (s.noteLoss z) :=
  .quiet z _ fun _ _ => ⟨rfl, rfl, rfl, Nat.le_refl _, rfl, rfl, rfl, rfl, id⟩

theorem Smalls.foldl {α : Type} {g : State → α → State} (h : ∀ s a, Small s (g s a)) (s : State) (xs : List α) :
    Smalls s (xs.foldl g s) := by
  induction xs generalizing s with
  | nil => exact .refl
  | cons a xs ih => exact .head (h s a) (ih (g s a))

theorem State.lossNotices_smalls (s : State) (f : Fin 4) (i : Nat) : Smalls s (s.lossNotices f i) :=
  Smalls.foldl State.noteLoss_small _ _

theorem NodeRun.isLive_eq_false {n : NodeRun} (h : n.state ≠ .live) : n.isLive = false := decide_eq_false h

/-- A record that is checked for health is LIVE only where it was. -/
theorem NodeRun.checked_isLive {n : NodeRun} (h : n.isLive = false) (autoBar hit : Bool) :
    (n.checked autoBar hit).isLive = false := by
  unfold NodeRun.checked
  split
  · split
    · rfl
    · exact h
  · exact h

section
variable {s : State} {c : Instr} {i : Nat} {r : NodeRec} {n : NodeRun}

theorem State.fallSilent_effect (hr : s.active.node? i = some r) (hn : s.node? i = some n)
    (hs : n.state = .warming ∨ n.state = .live) : Effect s c (s.fallSilent i r n) := by
  have hstep (p : ChannelProfile) (hit : Bool) : NodeStep p n (n.toSilent.checked r.autoBar hit) :=
    (n.toSilent_step p (by rcases hs with h | h <;> simp [h])).trans (NodeRun.checked_step p _ _ _)
  have hsilent (hit : Bool) : (n.toSilent.checked r.autoBar hit).isLive = false :=
    NodeRun.checked_isLive (NodeRun.isLive_eq_false (by simp [NodeRun.toSilent])) _ _
  unfold State.fallSilent
  dsimp only
  split
  · rename_i hlive
    rw [State.lossNotices_setNode, ← State.changeNode_of_isLive_ne (n := n) (by simp [hlive, hsilent])]
    have houtside := s.lossNotices_outside r.feeder i
    refine .changeNode (s.lossNotices_smalls r.feeder i) (by rwa [houtside.active]) ?_ (hstep _ _)
    simpa only [State.node?, houtside.nodes] using hn
  · rename_i hlive
    exact .small (.single (.setNode i n _ hn (fun p => hstep p _) (by simp [hlive, hsilent])))

/-- A CYCLE frame that is taken by `m`, the record itself or its entry to WARMING. -/
theorem State.cycleTaken_effect {m : NodeRun} {t : State} {fr : Frame} (h : Smalls s t) (hr : t.active.node? i = some r)
    (hn : t.node? i = some n) (hm : NodeStep (t.active.profileOf r) n m) (hs : m.state = .warming ∨ m.state = .live) :
    Effect s c (t.cycleTaken i r n m fr) := by
  unfold State.cycleTaken
  split
  · exact .changeNode h hr hn (hm.trans (NodeRun.stale_step ..))
  · dsimp only
    split
    · exact .changeNode h hr hn (hm.trans (NodeRun.countFrame_step ..))
    · rename_i d _ hbar
      have hcount : (m.countFrame r.autoBar (t.active.profileOf r) d (countPhases (cycleFlags fr.payload))).state = .warming
          ∨ (m.countFrame r.autoBar (t.active.profileOf r) d (countPhases (cycleFlags fr.payload))).state = .live := by
        revert hbar
        simp only [NodeRun.countFrame, NodeRun.checked]
        split
        · split
          · intro hbar; exact absurd rfl hbar
          · exact fun _ => hs
        · exact fun _ => hs
      have hrec : (t.pushRecord r.feeder (recordOf t.now fr)).active = t.active
          ∧ (t.pushRecord r.feeder (recordOf t.now fr)).nodes = t.nodes := by
        unfold State.pushRecord; split <;> exact ⟨rfl, rfl⟩
      refine .changeNode (h.tail (.record ..)) (by rwa [hrec.1]) ?_ ?_
      · simpa only [State.node?, hrec.2] using hn
      · rw [hrec.1]
        exact (hm.trans (NodeRun.countFrame_step ..)).trans (NodeRun.acceptFrame_step _ _ _ _ _ hcount)

theorem State.trackFrame_effect {t : State} (h : Smalls s t) (fr : Frame) : Effect s c (t.trackFrame fr) := by
  have count (g : Counters → Counters) (hg : ∀ x, (∀ k ∈ x.toList, k ≤ 4294967295) → ∀ k ∈ (g x).toList, k ≤ 4294967295) :
      Effect s c (t.modCounters g) := .small (h.tail (.counters _ (hg _)))
  unfold State.trackFrame
  split
  · exact count _ fun x hx => by simp [Counters.toList] at hx ⊢; simp [hx, gain_le]
  · rename_i i r n hfind
    obtain ⟨j, hj, hfind⟩ := Option.bind_eq_some_iff.mp hfind
    obtain ⟨q, hq, hfind⟩ := Option.bind_eq_some_iff.mp hfind
    obtain ⟨m, hn, hfind⟩ := Option.map_eq_some_iff.mp hfind
    cases hfind
    split
    · unfold State.takeCycle
      split
      · exact count _ fun x hx => by simp [Counters.toList] at hx ⊢; simp [hx, gain_le]
      · split
        · exact State.cycleTaken_effect h hq hn (NodeRun.toWarming_step _ _ _ (by simp [*])) (.inl rfl)
        · exact .small h
      · exact .small h
      · exact State.cycleTaken_effect h hq hn ⟨fun _ hx => hx, id⟩ (.inl ‹_›)
      · exact State.cycleTaken_effect h hq hn ⟨fun _ hx => hx, id⟩ (.inr ‹_›)
    · split
      · unfold State.takeAlert
        split
        · split
          · exact .small h
          · have hset : Smalls s (t.setNode i (n.motion t.now (t.active.profileOf r) (byteAt fr.payload 1))) :=
              h.tail (.setNode i n _ hn (fun p => n.motionHold_step p _) rfl)
            dsimp only
            split
            · exact .small (hset.tail (.trigger ..))
            · exact .small hset
        · exact count _ fun x hx => by simp [Counters.toList] at hx ⊢; simp [hx, gain_le]
      · exact .changeNode h hq hn (NodeRun.ident_step ..)

end

/-! ## Reception (R123 to R128) -/

theorem State.setRx_small (s : State) (p : Port) (r : Receiver) : Small s (s.setRx p r) := by
  cases p
  · exact .stream r s.rxController s.awaitingPresence s.awaitingRouting s.presenceDeadline
  · exact .stream s.rxSensor r s.awaitingPresence s.awaitingRouting s.presenceDeadline

/-- A port counter that gains stays in its range, and no other counter moves. -/
theorem State.modPort_small (s : State) (p : Port) {g : PortCounters → PortCounters}
    (hg : g = .gainAccepted ∨ g = .gainSlips ∨ g = .gainLengthErrors ∨ g = .gainCrcErrors ∨ g = .gainDrops) :
    Small s (s.modPort p g) := by
  refine .counters _ fun h => ?_
  simp only [Counters.toList, List.forall_mem_cons] at h ⊢
  rcases hg with rfl | rfl | rfl | rfl | rfl <;> cases p <;>
    simp [PortCounters.gainAccepted, PortCounters.gainSlips, PortCounters.gainLengthErrors, PortCounters.gainCrcErrors,
      PortCounters.gainDrops, gain_le, h]

theorem State.countSlip_smalls (s : State) (p : Port) (slipped : Bool) : Smalls s (s.countSlip p slipped) := by
  unfold State.countSlip
  split
  · exact .single (s.modPort_small p (by simp))
  · exact .refl

theorem State.forward_small (s : State) (f : Frame) : Small s (s.forward f) := by
  unfold State.forward
  split
  · exact .forward f ‹_›
  · exact s.modPort_small .sensor (by simp)

/-- A small step only, as an event of its own. -/
theorem Smalls.proof {s t : State} (h : Smalls s t) : t.proof = s.proof ∧ t.replies = s.replies := by
  induction h with
  | refl => exact ⟨rfl, rfl⟩
  | tail _ hstep ih =>
    rw [← ih.1, ← ih.2]
    cases hstep <;> try exact ⟨rfl, rfl⟩
    · unfold State.pushRecord; split <;> exact ⟨rfl, rfl⟩
    · rw [State.raiseTrigger_frame]; exact ⟨rfl, rfl⟩

theorem Did.small {s t : State} {c : Instr} (h : Smalls s t) : Did s c t := .event (.small h) (by rw [h.proof.1])

theorem Did.refl (s : State) (c : Instr) : Did s c s := .small .refl

theorem State.checkFrame_did {s t : State} {c : Instr} (h : Smalls s t) (p : Port) (f : Frame) :
    Did s c (t.checkFrame p f) := by
  unfold State.checkFrame
  split
  · exact .small (h.tail (t.modPort_small p (by simp)))
  · split
    · exact .small (h.tail (t.modPort_small p (by simp)))
    · have haccepted := h.tail (t.modPort_small p (g := .gainAccepted) (by simp))
      cases p with
      | sensor =>
        have hforward := haccepted.tail (State.forward_small _ f)
        refine .flushed ?_
        split
        · exact State.trackFrame_effect hforward f
        · exact .small hforward
      | controller => exact .small (haccepted.tail (.stream ..))

/-! ## Outside the zones -/

theorem State.reconcileProof_eq (s : State) (old : Tables) :
    s.reconcileProof old = { s with proof := (s.reconcileProof old).proof } := by
  unfold State.reconcileProof
  split
  · split <;> rfl
  · rfl

theorem State.startRunning_eq (s : State) :
    s.startRunning = { s with engine := s.startRunning.engine, feeders := s.startRunning.feeders } := by
  unfold State.startRunning
  split <;> rfl

theorem State.changeNode_outside (s : State) (i : Nat) (f : Fin 4) (n m : NodeRun) :
    (s.setNode i m).OutsideZones (s.changeNode i f n m) := by
  unfold State.changeNode
  split
  · exact .refl _
  · exact State.recompute_outside _ f

/-- The swap and the recomputations of ACTIVATE leave what is outside the zones as the swap leaves it. -/
theorem State.activate_swapped (s : State) : State.OutsideZones
    { s.swapTables with engine := s.activate.engine, feeders := s.activate.feeders } s.activate := by
  have ho := (s.swapTables.reconcileProof s.active).recomputeAll_outside
  unfold State.activate
  rw [State.startRunning_eq]
  rw [State.reconcileProof_eq] at ho ⊢
  exact { ho with engine := rfl, feeders := rfl }

end Sys2Proof.Machine

/-! Every command does what `Did` says: expiries, transmitters, the management commands, and the routing of a frame. -/

namespace Sys2Proof.Machine

/-! ## The management unit (R165) -/

/-- Presence, its deadline and the presence updates that are due stand (R128, R132). -/
structure State.SamePresence (s t : State) : Prop where
  presence : t.presence = s.presence
  deadline : t.presenceDeadline = s.presenceDeadline
  awaiting : t.awaitingPresence = s.awaitingPresence

theorem State.SamePresence.of_outside {s t u : State} (h : s.SamePresence t) (ho : t.OutsideZones u) : s.SamePresence u :=
  ⟨ho.presence.trans h.presence, ho.presenceDeadline.trans h.deadline, ho.awaitingPresence.trans h.awaiting⟩

/-- A command's answer is an effect of the command, which leaves presence alone, and no entry of its own follows the
REPLY. -/
structure Answers (s : State) (c : Instr) (a : Answer) : Prop where
  effect : Effect s c a.state
  more : a.more = []
  presence : s.SamePresence a.state

/-- The outcome is that of a command taken by the reply discipline of R165, with such an answer. -/
def Answered (s : State) (c : Instr) (code tag : Byte) (o : Host.Outcome State Fault Refusal) : Prop :=
  ∃ body, o = .next (s.takeCommand code tag body) ∧ Answers s c (body s)

section
variable {s : State} {c : Instr}

theorem Answers.refuse (status : Status) : Answers s c (refuse s status) := ⟨.small .refl, rfl, rfl, rfl, rfl⟩

theorem Answers.done {t : State} (h : Effect s c t) (data : List Byte)
    (hp : s.SamePresence t := by exact ⟨rfl, rfl, rfl⟩) : Answers s c (done t data) := ⟨h, rfl, hp⟩

theorem Answers.reading (data : List Byte) : Answers s c (Machine.done s data) := .done (.small .refl) data

theorem Answers.whenRunning {k : Answer} (h : Answers s c k) : Answers s c (whenRunning s k) := by
  unfold Machine.whenRunning
  split
  · exact .refuse _
  · exact h

theorem Answers.noParams {params : List Byte} {k : Answer} (h : params = [] → Answers s c k) :
    Answers s c (noParams s params k) := by
  unfold Machine.noParams
  split
  · exact h ‹_›
  · exact .refuse _

theorem Answers.onNode {params : List Byte} {k : Nat → NodeRec → NodeRun → Answer}
    (h : ∀ i r n, s.active.node? i = some r → s.node? i = some n → Answers s c (k i r n)) :
    Answers s c (onNode s params k) := by
  refine .whenRunning ?_
  split
  · split
    · split
      · exact h _ _ _ ‹_› ‹_›
      · exact .refuse _
    · exact .refuse _
  · exact .refuse _

theorem Answers.onZone {params : List Byte} {k : Nat → NodeRec → Zone → Answer}
    (h : ∀ (i : Byte) r x, params = [i] → s.active.position? i.toNat = some r → s.zone? i.toNat = some x →
      Answers s c (k i.toNat r x)) :
    Answers s c (onZone s params k) := by
  refine .whenRunning ?_
  split
  · split
    · split
      · rename_i r x hz
        obtain ⟨q, hq, hz⟩ := Option.bind_eq_some_iff.mp hz
        obtain ⟨y, hy, hz⟩ := Option.map_eq_some_iff.mp hz
        cases hz
        exact h _ _ _ rfl hq hy
      · exact .refuse _
    · exact .refuse _
  · exact .refuse _

/-- A command is answered, or discarded at a full reply queue. -/
theorem Answered.did {code tag : Byte} {o : Host.Outcome State Fault Refusal} (h : Answered s c code tag o) {t : State}
    (ht : o = .next t) : Did s c t := by
  obtain ⟨body, ho, h⟩ := h
  cases ho.symm.trans ht
  by_cases room : s.replies.length < Config.replyCapacity
  · rw [State.takeCommand_of_room room, h.more]
    exact .answered room h.effect
  · rw [State.takeCommand_of_full (Nat.le_of_not_lt room)]
    refine .small (.single (.counters _ fun hc => ?_))
    simp only [Counters.toList, List.forall_mem_cons] at hc ⊢
    simp [hc, gain_le]

/-! ## Readings (R169 to R171) -/

theorem execIdentify_answered (tag : Byte) (params : List Byte) : Answered s c codeIdentify tag (execIdentify tag params s) :=
  ⟨_, rfl, .noParams fun _ => .reading _⟩

theorem execReadStatus_answered (tag : Byte) (params : List Byte) : Answered s c codeReadStatus tag (execReadStatus tag params s) :=
  ⟨_, rfl, .noParams fun _ => .reading _⟩

theorem execReadNode_answered (tag : Byte) (params : List Byte) : Answered s c codeReadNode tag (execReadNode tag params s) :=
  ⟨_, rfl, .onNode fun _ _ _ _ _ => .reading _⟩

theorem execReadZone_answered (tag : Byte) (params : List Byte) : Answered s c codeReadZone tag (execReadZone tag params s) :=
  ⟨_, rfl, .onZone fun _ _ _ _ _ _ => .reading _⟩

theorem execReadHealth_answered (tag : Byte) (params : List Byte) : Answered s c codeReadHealth tag (execReadHealth tag params s) :=
  ⟨_, rfl, .onNode fun _ _ _ _ _ => .reading _⟩

theorem execReadCounters_answered (tag : Byte) (params : List Byte) : Answered s c codeReadCounters tag (execReadCounters tag params s) :=
  ⟨_, rfl, .noParams fun _ => .reading _⟩

/-! ## Loads (R153 to R155) -/

theorem all_set {α : Type} {test : α → Bool} {xs : List α} {i : Nat} {x : α} (h : xs.all test = true) (hx : test x = true) :
    (xs.set i x).all test = true := by
  rw [List.all_eq_true] at h ⊢
  intro y hy
  rcases List.mem_or_eq_of_mem_set hy with hy | rfl
  · exact h y hy
  · exact hx

theorem StagedStep.refl (t : Tables) : StagedStep t t := ⟨id, id, id, id, id, id, id⟩

theorem execLoadHeader_answered (tag : Byte) (params : List Byte) :
    Answered s c codeLoadHeader tag (execLoadHeader tag params s) := by
  refine ⟨_, rfl, ?_⟩
  split
  · exact .refuse _
  · rename_i h hp
    exact .done (.small (.single (.staged _ { StagedStep.refl s.staged with header := fun _ => (parseHeader_some hp).2 }))) _

theorem execLoadNode_answered (tag : Byte) (params : List Byte) :
    Answered s c codeLoadNode tag (execLoadNode tag params s) := by
  refine ⟨_, rfl, ?_⟩
  split
  · exact .refuse _
  · rename_i i r hp
    obtain ⟨ib, -, hp⟩ := Option.bind_eq_some_iff.mp hp
    obtain ⟨q, hq, hp⟩ := Option.map_eq_some_iff.mp hp
    cases hp
    exact .done (.small (.single (.staged _ { StagedStep.refl s.staged with
      nodesLength := fun h => by simpa using h
      nodes := fun h => all_set h (parseNode_some hq).2 }))) _

theorem execLoadZoneProfile_answered (tag : Byte) (params : List Byte) :
    Answered s c codeLoadZoneProfile tag (execLoadZoneProfile tag params s) := by
  refine ⟨_, rfl, ?_⟩
  split
  · exact .refuse _
  · rename_i i r hp
    obtain ⟨ib, -, hp⟩ := Option.bind_eq_some_iff.mp hp
    obtain ⟨q, hq, hp⟩ := Option.map_eq_some_iff.mp hp
    cases hp
    exact .done (.small (.single (.staged _ { StagedStep.refl s.staged with
      zonesLength := fun h => by simpa using h
      zones := fun h => all_set h (parseZoneProfile_some hq).2 }))) _

theorem execLoadChannelProfile_answered (tag : Byte) (params : List Byte) :
    Answered s c codeLoadChannelProfile tag (execLoadChannelProfile tag params s) := by
  refine ⟨_, rfl, ?_⟩
  split
  · exact .refuse _
  · rename_i i r hp
    obtain ⟨ib, -, hp⟩ := Option.bind_eq_some_iff.mp hp
    obtain ⟨q, hq, hp⟩ := Option.map_eq_some_iff.mp hp
    cases hp
    exact .done (.small (.single (.staged _ { StagedStep.refl s.staged with
      channelsLength := fun h => by simpa using h
      channels := fun h => all_set h (parseChannelProfile_some hq).2 }))) _

theorem Tables.empty_inRange : Tables.empty.inRange = true := by decide +kernel

theorem StagedStep.empty (t : Tables) : StagedStep t .empty where
  header _ := rfl
  nodesLength _ := rfl
  nodes _ := rfl
  zonesLength _ := rfl
  zones _ := rfl
  channelsLength _ := rfl
  channels _ := rfl

theorem execClearStaged_answered (tag : Byte) (params : List Byte) :
    Answered s c codeClearStaged tag (execClearStaged tag params s) := by
  refine ⟨_, rfl, ?_⟩
  exact .noParams fun _ => .done (.small (.single (.staged _ (.empty _)))) _

theorem execReadTable_answered (tag : Byte) (params : List Byte) :
    Answered s c codeReadTable tag (execReadTable tag params s) := by
  refine ⟨_, rfl, ?_⟩
  split
  · split
    · exact .reading _
    · exact .refuse _
  · exact .refuse _

theorem execActivate_answered (tag : Byte) (params : List Byte) :
    Answered s (.activate tag params) codeActivate tag (execActivate tag params s) := by
  refine ⟨_, rfl, ?_⟩
  refine .noParams fun hp => ?_
  subst hp
  split
  · exact ⟨.small .refl, rfl, rfl, rfl, rfl⟩
  · split
    · exact ⟨.small .refl, rfl, rfl, rfl, rfl⟩
    · exact .done (.activate ‹_› ‹_›) _ (.of_outside
      (t := { s.swapTables with engine := s.activate.engine, feeders := s.activate.feeders }) ⟨rfl, rfl, rfl⟩ s.activate_swapped)

/-! ## Commands on runtime state (R31 to R33, R62, R92, R93) -/

theorem execSetMode_answered (tag : Byte) (params : List Byte) :
    Answered s c codeSetMode tag (execSetMode tag params s) := by
  refine ⟨_, rfl, ?_⟩
  split
  · exact .refuse _
  · exact .done (.small (.single (.feeders _))) _

theorem execClearCounters_answered (tag : Byte) (params : List Byte) :
    Answered s c codeClearCounters tag (execClearCounters tag params s) := by
  refine ⟨_, rfl, ?_⟩
  exact .noParams fun _ => .done (.small (.single (.counters .zero fun _ => by decide))) _

theorem execClearHealthNode_answered (tag : Byte) (params : List Byte) :
    Answered s c codeClearHealthNode tag (execClearHealthNode tag params s) := by
  refine ⟨_, rfl, ?_⟩
  exact .onNode fun i _ n _ hn => .done (.small (.single (.setNode i n _ hn (fun p => n.clearHealth_step p) rfl))) _

theorem execBarNode_answered (tag : Byte) (params : List Byte) :
    Answered s c codeBarNode tag (execBarNode tag params s) := by
  refine ⟨_, rfl, ?_⟩
  refine .onNode fun i r n hr hn => ?_
  split
  · exact .refuse _
  · exact .done (.changeNode .refl hr hn (NodeRun.toBarred_step ..)) _
      (.of_outside (t := s.setNode i _) ⟨rfl, rfl, rfl⟩ (s.changeNode_outside ..))

theorem execAdmitNode_answered (tag : Byte) (params : List Byte) :
    Answered s c codeAdmitNode tag (execAdmitNode tag params s) := by
  refine ⟨_, rfl, ?_⟩
  refine .onNode fun i r n hr hn => ?_
  split
  · rename_i hs
    refine .done (.small (.single (.setNode i n _ hn (fun p => n.admitted_step p) ?_))) _
    rw [NodeRun.isLive_eq_false (n := n.admitted) (by simp [NodeRun.admitted]), NodeRun.isLive_eq_false]
    rcases hs with h | ⟨h, -⟩ <;> simp [h]
  · exact .refuse _

theorem execReleaseZone_answered (tag : Byte) (params : List Byte) :
    Answered s (.releaseZone tag params) codeReleaseZone tag (execReleaseZone tag params s) := by
  refine ⟨_, rfl, ?_⟩
  refine .onZone fun i r x hp hr hx => ?_
  subst hp
  split
  · exact .done (.release (.inl rfl) hr hx (by simp [Zone.isTripped, *]) (Nat.le_refl _)) _
      (.of_outside ⟨rfl, rfl, rfl⟩ (s.release_outside ..))
  · exact .refuse _

theorem execClearLockout_answered (tag : Byte) (params : List Byte) :
    Answered s (.clearLockout tag params) codeClearLockout tag (execClearLockout tag params s) := by
  refine ⟨_, rfl, ?_⟩
  refine .onZone fun i r x hp hr hx => ?_
  subst hp
  split
  · exact .done (.release (.inr rfl) hr hx ‹_› (Nat.zero_le _)) _ (.of_outside ⟨rfl, rfl, rfl⟩ (s.release_outside ..))
  · exact .refuse _

theorem execRestartEngine_did (tag : Byte) (params : List Byte) {t : State}
    (h : execRestartEngine tag params s = .next t) : Did s (.restartEngine tag params) t := by
  cases h
  by_cases room : s.replies.length < Config.replyCapacity
  · rw [State.takeCommand_of_room room]
    split
    · exact .answered room (.small .refl)
    · split
      · exact .answered room (.small .refl)
      · exact .restart
  · rw [State.takeCommand_of_full (Nat.le_of_not_lt room)]
    refine .small (.single (.counters _ fun hc => ?_))
    simp only [Counters.toList, List.forall_mem_cons] at hc ⊢
    simp [hc, gain_le]

theorem execBadCommand_answered {code : Byte} (h : code ∉ commandCodes) (tag : Byte) (params : List Byte) :
    Answered s c code tag (execBadCommand code tag params s) :=
  ⟨_, execBadCommand_of_unlisted h tag params s, .refuse _⟩

theorem execBadCommand_did (code tag : Byte) (params : List Byte) {t : State}
    (h : execBadCommand code tag params s = .next t) : Did s c t := by
  by_cases hc : code ∈ commandCodes
  · cases (congrArg Host.Outcome.next (if_pos hc)).symm.trans h
    exact .refl s c
  · exact (execBadCommand_answered hc tag params).did h

/-! ## Capture and proof commands (R146 to R148, R175 to R179) -/

theorem execCaptureNow_answered (tag : Byte) (params : List Byte) :
    Answered s c codeCaptureNow tag (execCaptureNow tag params s) := by
  refine ⟨_, rfl, ?_⟩
  refine .whenRunning ?_
  split
  · split
    · exact .refuse _
    · split
      · exact .done (.small (.single (.trigger ..))) _ (.of_outside ⟨rfl, rfl, rfl⟩ (s.raiseTrigger_outside ..))
      · exact .refuse _
  · exact .refuse _

theorem execReadCapture_answered (tag : Byte) (params : List Byte) :
    Answered s c codeReadCapture tag (execReadCapture tag params s) := by
  refine ⟨_, rfl, ?_⟩
  split
  · exact .refuse _
  · exact .reading _

theorem finOf_eq_some_val {n : Nat} {b : Byte} {k : Fin n} (h : finOf n b = some k) : b.toNat = k.val := by
  unfold finOf at h
  split at h
  · exact congrArg Fin.val (Option.some.inj h)
  · cases h

theorem freeCaptureParams_some {params : List Byte} {i : Fin 4} {abort : Bool}
    (h : freeCaptureParams params = some (i, abort)) : ∃ b a, params = [b, a] ∧ b.toNat = i.val := by
  unfold freeCaptureParams at h
  split at h
  · rename_i b a
    obtain ⟨j, hj, h⟩ := Option.bind_eq_some_iff.mp h
    obtain ⟨_, -, h⟩ := Option.map_eq_some_iff.mp h
    cases h
    exact ⟨b, a, rfl, finOf_eq_some_val hj⟩
  · cases h

theorem execFreeCapture_answered (tag : Byte) (params : List Byte) :
    Answered s (.freeCapture tag params) codeFreeCapture tag (execFreeCapture tag params s) := by
  refine ⟨_, rfl, ?_⟩
  split
  · exact .refuse _
  · rename_i i abort hp
    obtain ⟨b, a, rfl, hb⟩ := freeCaptureParams_some hp
    split
    · exact .done (.free hb) _
    · exact .refuse _

theorem State.proof_state_of_free {s : State} (h : ¬s.proofInFlight = true) : s.proof.state = .none := by
  simpa [State.proofInFlight] using h

theorem execProveZone_answered (tag : Byte) (params : List Byte) :
    Answered s (.proveZone tag params) codeProveZone tag (execProveZone tag params s) := by
  refine ⟨_, rfl, ?_⟩
  refine .whenRunning ?_
  split
  · split
    · split
      · exact .refuse _
      · rename_i hfree
        split
        · exact ⟨.proveZone (State.proof_state_of_free hfree) ‹_›, rfl, rfl, rfl, rfl⟩
        · exact .refuse _
    · exact .refuse _
  · exact .refuse _

theorem execProveLine_answered (tag : Byte) (params : List Byte) :
    Answered s (.proveLine tag params) codeProveLine tag (execProveLine tag params s) := by
  refine ⟨_, rfl, ?_⟩
  split
  · exact .refuse _
  · split
    · exact .refuse _
    · rename_i hfree
      split
      · exact .refuse _
      · exact ⟨.proveLine (State.proof_state_of_free hfree), rfl, rfl, rfl, rfl⟩

theorem execCancelProof_answered (tag : Byte) (params : List Byte) :
    Answered s (.cancelProof tag params) codeCancelProof tag (execCancelProof tag params s) := by
  refine ⟨_, rfl, ?_⟩
  refine .noParams fun _ => ?_
  split
  · exact .refuse _
  · exact .done (.cancelZone ‹_›) _
  · exact .done (.cancelPulse ‹_›) _
  · exact .reading _

/-! ## Events -/

theorem execSyncPairFound_did (p : Port) (bytes : List Byte) {t : State} (h : execSyncPairFound p bytes s = .next t) :
    Did s c t := by
  cases h
  split
  · exact .refl s c
  · split
    · exact .refl s c
    · exact .small (.head (s.setRx_small p _) (State.countSlip_smalls ..))

theorem execLengthError_did (p : Port) (bytes : List Byte) {t : State} (h : execLengthError p bytes s = .next t) :
    Did s c t := by
  cases h
  split
  · exact .refl s c
  · split
    · exact .small (.head (s.modPort_small p (by simp)) (.head (State.setRx_small _ p _) (State.countSlip_smalls ..)))
    · exact .refl s c

theorem execFrameCheck_did (p : Port) (bytes : List Byte) {t : State} (h : execFrameCheck p bytes s = .next t) :
    Did s c t := by
  cases h
  split
  · exact .refl s c
  · exact State.checkFrame_did (.single (s.setRx_small p _)) p _

theorem execSilenceExpiry_did (i : Nat) {t : State} (h : execSilenceExpiry i s = .next t) : Did s c t := by
  cases h
  split
  · rename_i hr hn
    split
    · rename_i hdue
      exact .flushed (State.fallSilent_effect hr hn hdue.2)
    · exact .refl s c
  · exact .refl s c

theorem execMotionHoldExpiry_did (i : Nat) (ph : Phase) {t : State} (h : execMotionHoldExpiry i ph s = .next t) :
    Did s c t := by
  cases h
  split
  · exact .refl s c
  · rename_i n hn
    split
    · exact .small (.single (.setNode i n _ hn (fun p => n.motionHold_step p _) rfl))
    · exact .refl s c

theorem execFeederEvaluationExpiry_did (f : Fin 4) {t : State} (h : execFeederEvaluationExpiry f s = .next t) :
    Did s (.feederEvaluationExpiry f) t := by
  cases h
  split
  · exact .feederExpiry
  · exact .refl s _

theorem execLossRecordExpiry_did (z : Nat) {t : State} (h : execLossRecordExpiry z s = .next t) : Did s c t := by
  cases h
  split
  · exact .small (.single (.quiet z _ fun _ _ => ⟨rfl, rfl, rfl, Nat.le_refl _, rfl, rfl, rfl, rfl, id⟩))
  · exact .refl s c

theorem execStepTimerExpiry_did (z : Nat) {t : State} (h : execStepTimerExpiry z s = .next t) : Did s c t := by
  cases h
  split
  · refine .small (.head (.quiet z _ fun x _ => ?_) (.single (.raise z .advisory)))
    exact ⟨rfl, rfl, rfl, Nat.le_refl _, rfl, rfl, rfl, rfl, fun hf => { hf with step := fun hn => by cases hn }⟩
  · exact .refl s c

theorem execTripMemoryExpiry_did (z : Nat) {t : State} (h : execTripMemoryExpiry z s = .next t) : Did s c t := by
  cases h
  split
  · refine .small (.single (.quiet z _ fun x _ => ?_))
    exact ⟨rfl, rfl, rfl, Nat.zero_le _, rfl, rfl, rfl, rfl, fun hf => { hf with memory := fun hn => by cases hn }⟩
  · exact .refl s c

theorem execGraceExpiry_did (z : Nat) {t : State} (h : execGraceExpiry z s = .next t) : Did s (.graceExpiry z) t := by
  cases h
  split
  · rename_i hany
    obtain ⟨x, hx, hdue⟩ := Option.any_eq_true _ _ |>.mp hany
    simp only [Bool.and_eq_true, decide_eq_true_eq] at hdue
    exact .event (.blindTrip hx hdue.2) rfl
  · exact .refl s _

theorem execPresenceUpdate_did {t : State} (h : execPresenceUpdate s = .next t) : Did s c t := by
  cases h
  split
  · exact .refl s c
  · rename_i limit rest _
    have hrest : Smalls s { s with awaitingPresence := rest } :=
      .single (.stream s.rxSensor s.rxController rest s.awaitingRouting s.presenceDeadline)
    unfold State.signOfLife
    dsimp only
    split
    · exact .event (.presence hrest) rfl
    · exact .small (hrest.tail (.stream s.rxSensor s.rxController rest s.awaitingRouting _))

theorem execControllerSilenceExpiry_did {t : State} (h : execControllerSilenceExpiry s = .next t) : Did s c t := by
  cases h
  split
  · exact .event (.presence .refl) rfl
  · exact .refl s c

theorem execPulseExpiry_did {t : State} (h : execPulseExpiry s = .next t) : Did s .pulseExpiry t := by
  cases h
  split
  · rename_i hdue
    exact .pulseExpiry hdue.2
  · exact .refl s _

theorem execControllerTxStart_did {t : State} (h : execControllerTxStart s = .next t) : Did s c t := by
  cases h
  split
  · exact .transmit
  · exact .refl s c

theorem execControllerTxEnd_did {t : State} (h : execControllerTxEnd s = .next t) : Did s c t := by
  cases h
  split
  · exact .refl s c
  · exact .transmit

theorem execSensorTxStart_did {t : State} (h : execSensorTxStart s = .next t) : Did s c t := by
  cases h
  split
  · exact .small (.single .sensorNext)
  · exact .refl s c

theorem execSensorTxEnd_did {t : State} (h : execSensorTxEnd s = .next t) : Did s c t := by
  cases h
  split
  · exact .refl s c
  · exact .small (.single .sensorNext)

/-- The routing of a frame runs its command, or queues or drops it (R128). -/
theorem execControllerFrameRouting_did {t : State} (h : execControllerFrameRouting s = .next t) :
    Did s .controllerFrameRouting t := by
  unfold execControllerFrameRouting at h
  split at h
  · cases h; exact .refl s _
  · rename_i f rest hf
    have hrest : Smalls s { s with awaitingRouting := rest } :=
      .single (.stream s.rxSensor s.rxController s.awaitingPresence rest s.presenceDeadline)
    unfold routeFrame at h
    split at h
    · split at h
      · exact .routed hf ((exec_commandOf ..).trans h)
      · cases h; exact .small hrest
    · cases h
      unfold State.queueForSensor
      split
      · rename_i room
        exact .queued hf room
      · exact .small (hrest.tail (State.modPort_small _ .controller (by simp)))

end

/-! ## All commands -/

/-- Everything a command can do, command by command. -/
theorem exec_did {s t : State} {c : Instr} (h : exec c s = .next t) : Did s c t := by
  cases c with
  | hardReset strap => cases h; exact .hardReset
  | lengthError port bytes => exact execLengthError_did port bytes h
  | frameCheck port bytes => exact execFrameCheck_did port bytes h
  | silenceExpiry node => exact execSilenceExpiry_did node h
  | motionHoldExpiry node phase => exact execMotionHoldExpiry_did node phase h
  | feederEvaluationExpiry feeder => exact execFeederEvaluationExpiry_did feeder h
  | lossRecordExpiry zone => exact execLossRecordExpiry_did zone h
  | stepTimerExpiry zone => exact execStepTimerExpiry_did zone h
  | tripMemoryExpiry zone => exact execTripMemoryExpiry_did zone h
  | graceExpiry zone => exact execGraceExpiry_did zone h
  | presenceUpdate => exact execPresenceUpdate_did h
  | controllerFrameRouting => exact execControllerFrameRouting_did h
  | controllerSilenceExpiry => exact execControllerSilenceExpiry_did h
  | controllerTxStart => exact execControllerTxStart_did h
  | controllerTxEnd => exact execControllerTxEnd_did h
  | sensorTxStart => exact execSensorTxStart_did h
  | sensorTxEnd => exact execSensorTxEnd_did h
  | pulseExpiry => exact execPulseExpiry_did h
  | badCommand code tag params => exact execBadCommand_did code tag params h
  | identify tag params => exact (execIdentify_answered tag params).did h
  | readStatus tag params => exact (execReadStatus_answered tag params).did h
  | readNode tag params => exact (execReadNode_answered tag params).did h
  | readZone tag params => exact (execReadZone_answered tag params).did h
  | readHealth tag params => exact (execReadHealth_answered tag params).did h
  | readCounters tag params => exact (execReadCounters_answered tag params).did h
  | clearCounters tag params => exact (execClearCounters_answered tag params).did h
  | clearHealthNode tag params => exact (execClearHealthNode_answered tag params).did h
  | loadHeader tag params => exact (execLoadHeader_answered tag params).did h
  | loadNode tag params => exact (execLoadNode_answered tag params).did h
  | loadZoneProfile tag params => exact (execLoadZoneProfile_answered tag params).did h
  | loadChannelProfile tag params => exact (execLoadChannelProfile_answered tag params).did h
  | clearStaged tag params => exact (execClearStaged_answered tag params).did h
  | readTable tag params => exact (execReadTable_answered tag params).did h
  | activate tag params => exact (execActivate_answered tag params).did h
  | setMode tag params => exact (execSetMode_answered tag params).did h
  | releaseZone tag params => exact (execReleaseZone_answered tag params).did h
  | clearLockout tag params => exact (execClearLockout_answered tag params).did h
  | barNode tag params => exact (execBarNode_answered tag params).did h
  | admitNode tag params => exact (execAdmitNode_answered tag params).did h
  | captureNow tag params => exact (execCaptureNow_answered tag params).did h
  | readCapture tag params => exact (execReadCapture_answered tag params).did h
  | freeCapture tag params => exact (execFreeCapture_answered tag params).did h
  | proveZone tag params => exact (execProveZone_answered tag params).did h
  | proveLine tag params => exact (execProveLine_answered tag params).did h
  | cancelProof tag params => exact (execCancelProof_answered tag params).did h
  | restartEngine tag params => exact execRestartEngine_did tag params h
  | syncPairFound port bytes => exact execSyncPairFound_did port bytes h

theorem Answered.ite {s : State} {code tag : Byte} {p : Prop} [Decidable p] {a b : Instr}
    (ha : p → Answered s a code tag (exec a s)) (hb : ¬p → Answered s b code tag (exec b s)) :
    Answered s (if p then a else b) code tag (exec (if p then a else b) s) := by
  split
  · exact ha ‹_›
  · exact hb ‹_›

/-- Whatever its code, but for RESTART ENGINE, a command's answer is an effect of it, and nothing else follows the REPLY. -/
theorem commandOf_answered {s : State} {code : Byte} (hcode : code ≠ codeRestartEngine) (tag : Byte) (params : List Byte) :
    Answered s (commandOf code tag params) code tag (exec (commandOf code tag params) s) := by
  unfold commandOf
  refine .ite (fun h => h ▸ execIdentify_answered tag params) fun _ => ?_
  refine .ite (fun h => h ▸ execReadStatus_answered tag params) fun _ => ?_
  refine .ite (fun h => h ▸ execReadNode_answered tag params) fun _ => ?_
  refine .ite (fun h => h ▸ execReadZone_answered tag params) fun _ => ?_
  refine .ite (fun h => h ▸ execReadHealth_answered tag params) fun _ => ?_
  refine .ite (fun h => h ▸ execReadCounters_answered tag params) fun _ => ?_
  refine .ite (fun h => h ▸ execClearCounters_answered tag params) fun _ => ?_
  refine .ite (fun h => h ▸ execClearHealthNode_answered tag params) fun _ => ?_
  refine .ite (fun h => h ▸ execLoadHeader_answered tag params) fun _ => ?_
  refine .ite (fun h => h ▸ execLoadNode_answered tag params) fun _ => ?_
  refine .ite (fun h => h ▸ execLoadZoneProfile_answered tag params) fun _ => ?_
  refine .ite (fun h => h ▸ execLoadChannelProfile_answered tag params) fun _ => ?_
  refine .ite (fun h => h ▸ execClearStaged_answered tag params) fun _ => ?_
  refine .ite (fun h => h ▸ execReadTable_answered tag params) fun _ => ?_
  refine .ite (fun h => h ▸ execActivate_answered tag params) fun _ => ?_
  refine .ite (fun h => h ▸ execSetMode_answered tag params) fun _ => ?_
  refine .ite (fun h => h ▸ execReleaseZone_answered tag params) fun _ => ?_
  refine .ite (fun h => h ▸ execClearLockout_answered tag params) fun _ => ?_
  refine .ite (fun h => h ▸ execBarNode_answered tag params) fun _ => ?_
  refine .ite (fun h => h ▸ execAdmitNode_answered tag params) fun _ => ?_
  refine .ite (fun h => h ▸ execCaptureNow_answered tag params) fun _ => ?_
  refine .ite (fun h => h ▸ execReadCapture_answered tag params) fun _ => ?_
  refine .ite (fun h => h ▸ execFreeCapture_answered tag params) fun _ => ?_
  refine .ite (fun h => h ▸ execProveZone_answered tag params) fun _ => ?_
  refine .ite (fun h => h ▸ execProveLine_answered tag params) fun _ => ?_
  refine .ite (fun h => h ▸ execCancelProof_answered tag params) fun _ => ?_
  refine .ite (fun h => absurd h hcode) fun _ => execBadCommand_answered ?_ tag params
  simp only [commandCodes, List.mem_cons, List.not_mem_nil, or_false, not_or]
  (repeat' apply And.intro) <;> assumption

end Sys2Proof.Machine

/-!
What every step keeps, packaged once: a property that the pieces of `Did` keep is kept by every step (`Kept.step`), and the
events of the zone state machine are made of five acts on one zone (`ZoneAct`).
-/

namespace Sys2Proof.Machine

/-! ## The expiry of a feeder (R61) -/

theorem State.latchMode_smalls (s : State) (f : Fin 4) : Smalls s (s.latchMode f) := by
  refine .head (.feeders _) (Smalls.foldl (fun t z => .quiet z _ fun x _ => ?_) _ _)
  exact ⟨rfl, rfl, rfl, Nat.min_le_left _ _, rfl, rfl, rfl, rfl, fun h => { h with }⟩

theorem State.rearm_small (s : State) (f : Fin 4) : Small s (s.rearm f) := .feeders _

/-! ## A property that every step keeps -/

/-- A property that each piece of what a command can do keeps. -/
structure Kept (P : State → Prop) : Prop where
  pending : ∀ {s : State} (l : List Instr), P s → P { s with pending := l }
  tick : ∀ {s : State}, P s → P s.tick
  hardReset : ∀ (strap : BitVec 2) (l : List Instr), P { State.reset with strap := strap, pending := l }
  small : ∀ {s t : State}, P s → Small s t → P t
  changeNode : ∀ {s : State} {i : Nat} {r : NodeRec} {n m : NodeRun}, P s → s.active.node? i = some r →
    s.node? i = some n → NodeStep (s.active.profileOf r) n m → P (s.changeNode i r.feeder n m)
  evaluateZone : ∀ {s : State} (z : Nat), P s → P (s.evaluateZone z)
  blindTrip : ∀ {s : State} {z : Nat} {x : Zone}, P s → s.zone? z = some x → x.run.state = .degraded → P (s.blindTrip z)
  presence : ∀ {s : State} (p : Presence) (d : Option Time), P s →
    P (State.recomputeLines { s with presence := p, presenceDeadline := d })
  release : ∀ {s : State} {z : Nat} {x : Zone} {trips : Nat} (memory : Option Time), P s → s.zone? z = some x →
    x.isTripped = true → trips ≤ x.run.trips → P (s.release z trips memory)
  free : ∀ {s : State} (i : Fin 4), P s → P { s with slots := s.slots.set i .empty }
  proveZone : ∀ {s : State} (z : Nat) (forced : Indications) (tag : Byte), P s → s.proof.state = .none →
    P { s with proof := zoneProof z forced tag }
  proveLine : ∀ {s : State} (l : Fin 4) (d : Time) (tag : Byte), P s → s.proof.state = .none →
    P (State.recomputeLines { s with proof := lineProof l d tag })
  completeZone : ∀ {s : State} (status : Status) (data : List Byte), P s → s.proof.state = .zonePending →
    P (s.completeProof status data)
  completeLine : ∀ {s : State} (status : Status), P s → s.proof.state = .pulseRunning →
    P (s.completeProof status []).recomputeLines
  activate : ∀ {s : State}, P s → s.staged.failure = none → s.droppedTripped = none → P s.activate
  restart : ∀ {s : State}, P s → P s.restart
  flushHeld : ∀ {s : State}, P s → P s.flushHeld
  replies : ∀ {s : State} (r : List ReplyEntry), P s → P { s with replies := r }
  transmit : ∀ {s : State}, P s → P s.chooseNext
  queued : ∀ {s : State} {f : Frame} {rest : List Frame}, P s → s.sensorQueue.length < Config.sensorQueueCapacity →
    P { s with awaitingRouting := rest, sensorQueue := s.sensorQueue ++ [f] }

section
variable {P : State → Prop}

theorem Kept.smalls (k : Kept P) {s t : State} (hs : P s) (h : Smalls s t) : P t := by
  induction h with
  | refl => exact hs
  | tail _ hstep ih => exact k.small ih hstep

theorem Kept.effect (k : Kept P) {s t : State} {c : Instr} (hs : P s) (h : Effect s c t) : P t := by
  cases h with
  | small h => exact k.smalls hs h
  | changeNode h hr hn hstep => exact k.changeNode (k.smalls hs h) hr hn hstep
  | blindTrip hx h => exact k.blindTrip hs hx h
  | presence h => exact k.presence _ _ (k.smalls hs h)
  | release _ _ hx ht hle => exact k.release _ hs hx ht hle
  | free _ => exact k.free _ hs
  | proveZone h _ => exact k.proveZone _ _ _ hs h
  | proveLine h => exact k.proveLine _ _ _ hs h
  | cancelZone h => exact k.completeZone _ _ hs h
  | cancelPulse h => exact k.completeLine _ hs h
  | activate hv hd => exact k.activate hs hv hd

theorem State.pendingProof_some {s : State} {f : Fin 4} {zxu : Nat × Zone × Nat} (h : s.pendingProof f = some zxu) :
    s.proof.state = .zonePending := by
  unfold State.pendingProof at h
  split at h
  · assumption
  · cases h

theorem Kept.shadowEvaluation (k : Kept P) {s : State} (hs : P s) (f : Fin 4) : P (s.shadowEvaluation f) := by
  unfold State.shadowEvaluation
  split
  · exact hs
  · rename_i hp
    exact k.flushHeld (k.completeZone _ _ hs (State.pendingProof_some hp))

theorem Kept.feederExpiry (k : Kept P) {s : State} (hs : P s) (f : Fin 4) : P (s.feederExpiry f) := by
  have hzones : ∀ (zs : List Nat) (t : State), P t → P (zs.foldl State.evaluateZone t) := by
    intro zs
    induction zs with
    | nil => exact fun _ ht => ht
    | cons z zs ih => exact fun t ht => ih _ (k.evaluateZone z ht)
  have hshadow := k.shadowEvaluation (k.smalls hs (s.latchMode_smalls f)) f
  exact k.flushHeld (hzones _ _ (k.small hshadow (State.rearm_small _ f)))

/-- Such a property is kept by everything a command can do; `hr` is what a routed frame's command does. -/
theorem Kept.did (k : Kept P) {s t : State} {c : Instr} (hs : P s) (h : Did s c t)
    (hr : c = .controllerFrameRouting → ∀ rest code tag params,
      exec (commandOf code tag params) { s with awaitingRouting := rest } = .next t → P t) : P t := by
  cases h with
  | hardReset => exact k.hardReset _ _
  | event h _ => exact k.effect hs h
  | flushed h => exact k.flushHeld (k.effect hs h)
  | answered _ h => exact k.flushHeld (k.replies _ (k.effect hs h))
  | feederExpiry => exact k.feederExpiry hs _
  | pulseExpiry h => exact k.flushHeld (k.completeLine _ hs h)
  | transmit => exact k.transmit hs
  | restart => exact k.flushHeld (k.replies _ (k.restart hs))
  | queued _ room => exact k.queued hs room
  | routed _ h => exact hr rfl _ _ _ _ h

theorem ite_ne_of_ne {c : Prop} [Decidable c] {a b x : Instr} (ha : a ≠ x) (hb : b ≠ x) : (if c then a else b) ≠ x := by
  split <;> assumption

/-- The command that a MANAGE frame spells routes no frame. -/
theorem commandOf_ne_routing (code tag : Byte) (params : List Byte) :
    commandOf code tag params ≠ .controllerFrameRouting := by
  unfold commandOf
  iterate 27 refine ite_ne_of_ne nofun ?_
  nofun

/-- Such a property is kept by every command, a routed one included. -/
theorem Kept.exec (k : Kept P) {s t : State} {c : Instr} (hs : P s) (h : exec c s = .next t) : P t := by
  refine k.did hs (exec_did h) fun _ rest code tag params hrouted => ?_
  have hrest := k.small hs (.stream s.rxSensor s.rxController s.awaitingPresence rest s.presenceDeadline)
  exact k.did hrest (exec_did hrouted) fun hc => absurd hc (commandOf_ne_routing code tag params)

/-- Such a property is kept by every step. -/
theorem Kept.step (k : Kept P) {s t : State} (hs : P s) (h : step s = .next t) : P t := by
  unfold Machine.step at h
  split at h
  · cases h; exact k.tick hs
  · exact k.exec (k.pending _ hs) h

end

/-! ## The acts of the zone state machine -/

/-- An act on the records of one zone, and what it tells the other units: a change of the zone that keeps its topology
record, a raise, the end of its proof, a recomputation of the lines, a trigger. -/
inductive ZoneAct (z : Nat) (s : State) : State → Prop where
  | modZone (g : Zone → Zone) (h : ∀ x, (g x).topo = x.topo) : ZoneAct z s (s.modZone z g)
  | raise (kind : VerdictKind) : ZoneAct z s (s.raise z kind)
  | abandonProof : ZoneAct z s (s.abandonProof z)
  | recomputeLines : ZoneAct z s s.recomputeLines
  | raiseTrigger (f : Fin 4) (kind : TriggerKind) : ZoneAct z s (s.raiseTrigger f kind (some z))

/-- Acts on one zone, one after another. -/
abbrev ZoneActs (z : Nat) : State → State → Prop := Relation.ReflTransGen (ZoneAct z)

section
variable {s t : State} {z : Nat}

theorem ZoneActs.modRun (h : ZoneActs z s t) (g : ZoneRecord → ZoneRecord) : ZoneActs z s (t.modRun z g) :=
  h.tail (.modZone _ fun _ => rfl)

theorem ZoneActs.modZone (h : ZoneActs z s t) (g : Zone → Zone) (hg : ∀ x, (g x).topo = x.topo := by intro; rfl) :
    ZoneActs z s (t.modZone z g) := h.tail (.modZone g hg)

theorem ZoneActs.raise (h : ZoneActs z s t) (kind : VerdictKind) : ZoneActs z s (t.raise z kind) := h.tail (.raise kind)

theorem ZoneActs.abandonProof (h : ZoneActs z s t) : ZoneActs z s (t.abandonProof z) := h.tail .abandonProof

theorem ZoneActs.recomputeLines (h : ZoneActs z s t) : ZoneActs z s t.recomputeLines := h.tail .recomputeLines

theorem ZoneActs.enterSuspect (h : ZoneActs z s t) : ZoneActs z s (t.enterSuspect z) :=
  (h.modRun _).tail (.raiseTrigger _ _)

theorem ZoneActs.enterAbsorbed (h : ZoneActs z s t) : ZoneActs z s (t.enterAbsorbed z) :=
  ((h.modZone _).abandonProof).raise _

theorem ZoneActs.enterDegraded (h : ZoneActs z s t) (reason : Reason) : ZoneActs z s (t.enterDegraded z reason) :=
  ((h.modRun _).abandonProof).raise _

theorem ZoneActs.restoreDegraded (h : ZoneActs z s t) : ZoneActs z s (t.restoreDegraded z) := by
  unfold State.restoreDegraded
  dsimp only
  split
  · exact ((h.modRun _).enterSuspect).raise _
  · exact ((h.modRun _).modRun _).raise _

theorem ZoneActs.raiseWouldTrip (h : ZoneActs z s t) : ZoneActs z s (t.raiseWouldTrip z) := by
  unfold State.raiseWouldTrip
  split
  · exact (h.modRun _).raise _
  · exact h

theorem State.handOff_acts (s : State) (z : Nat) (new : Evaluability) : ZoneActs z s (s.handOff z new) := by
  have here : ZoneActs z s s := .refl
  unfold State.handOff
  split
  · exact here
  · split
    · exact here
    · exact here
    · exact here
    · exact (here.modZone _).raise _
    · exact here.enterDegraded _
    · exact here.enterDegraded _
    · exact here.enterAbsorbed
    · exact here.restoreDegraded
    · exact (here.modRun _).raise _
    · exact (here.modRun _).raise _
    · exact here
    · exact here.enterAbsorbed
    · exact here.enterDegraded _
    · exact here.enterDegraded _
    · exact here
    · exact here.enterAbsorbed
    · exact here.enterDegraded _
    · exact here.enterDegraded _

theorem ZoneActs.confirm (h : ZoneActs z s t) : ZoneActs z s (t.confirm z) := by
  unfold State.confirm
  split
  · exact h
  · exact ((((h.modRun _).raise _).abandonProof).recomputeLines).tail (.raiseTrigger _ _)

theorem ZoneActs.takeDecision (h : ZoneActs z s t) (d : Decision) : ZoneActs z s (t.takeDecision z d) := by
  cases d with
  | stay => exact h
  | suspect => exact h.enterSuspect
  | suspectWouldTrip => exact h.enterSuspect.raiseWouldTrip
  | wouldTrip => exact h.raiseWouldTrip
  | confirm => exact h.confirm
  | normal => exact h.modRun _

theorem State.evaluateZone_acts (s : State) (z : Nat) : ZoneActs z s (s.evaluateZone z) := by
  unfold State.evaluateZone
  split
  · exact .refl
  · split
    · exact .refl
    · split
      · exact (ZoneActs.modZone .refl _).takeDecision _
      · exact .refl

theorem State.blindTrip_acts (s : State) (z : Nat) : ZoneActs z s (s.blindTrip z) :=
  ((ZoneActs.modRun .refl _).raise _).recomputeLines

theorem ZoneActs.followTopology (h : ZoneActs z s t) : ZoneActs z s (t.followTopology z) := by
  unfold State.followTopology
  split
  · exact h
  · split
    · exact h
    · exact h.enterAbsorbed
    · exact h.enterDegraded _
    · exact h.enterDegraded _

theorem State.release_acts (s : State) (z trips : Nat) (memory : Option Time) : ZoneActs z s (s.release z trips memory) :=
  (((ZoneActs.modZone .refl _).raise _).recomputeLines).followTopology

end

/-- A property that the acts on zones and the replacement of topology records keep. -/
structure ZoneKept (P : State → Prop) : Prop where
  act : ∀ {s t : State} {z : Nat}, P s → ZoneAct z s t → P t
  replaceTopology : ∀ {s : State} (f : Fin 4), P s → P (s.replaceTopology f)

section
variable {P : State → Prop}

theorem ZoneKept.acts (k : ZoneKept P) {s t : State} {z : Nat} (hs : P s) (h : ZoneActs z s t) : P t := by
  induction h with
  | refl => exact hs
  | tail _ hstep ih => exact k.act ih hstep

theorem ZoneKept.recompute (k : ZoneKept P) {s : State} (hs : P s) (f : Fin 4) : P (s.recompute f) := by
  have hoffs : ∀ (offs : List (Nat × Evaluability)) (t : State), P t → P (offs.foldl (fun t h => t.handOff h.1 h.2) t) := by
    intro offs
    induction offs with
    | nil => exact fun _ ht => ht
    | cons off offs ih => exact fun t ht => ih _ (k.acts ht (t.handOff_acts off.1 off.2))
  exact hoffs _ _ (k.replaceTopology f hs)

theorem ZoneKept.recomputeAll (k : ZoneKept P) {s : State} (hs : P s) : P s.recomputeAll := by
  have hfeeders : ∀ (fs : List (Fin 4)) (t : State), P t → P (fs.foldl State.recompute t) := by
    intro fs
    induction fs with
    | nil => exact fun _ ht => ht
    | cons f fs ih => exact fun t ht => ih _ (k.recompute ht f)
  exact hfeeders _ _ hs

theorem ZoneKept.changeNode (k : ZoneKept P) {s : State} {i : Nat} {f : Fin 4} {n m : NodeRun} (hs : P (s.setNode i m)) :
    P (s.changeNode i f n m) := by
  unfold State.changeNode
  split
  · exact hs
  · exact k.recompute hs f

end

end Sys2Proof.Machine

/-!
Capture (R140 to R145, R149), node records and counters (R2, R19, R42, R134): what every step keeps of them.
-/

namespace Sys2Proof.Machine

/-! ## Frames: which fields an operation may write -/

section
variable (s : State)

theorem State.abandonProof_eq (z : Nat) : s.abandonProof z = { s with proof := (s.abandonProof z).proof } := by
  unfold State.abandonProof
  split <;> rfl

theorem State.pushRecord_eq (f : Fin 4) (r : CaptureRecord) :
    s.pushRecord f r = { s with rings := (s.pushRecord f r).rings, slots := (s.pushRecord f r).slots } := by
  unfold State.pushRecord
  split <;> rfl

theorem State.setRx_eq (p : Port) (r : Receiver) :
    s.setRx p r = { s with rxSensor := (s.setRx p r).rxSensor, rxController := (s.setRx p r).rxController } := by
  cases p <;> rfl

theorem State.chooseNext_eq : s.chooseNext = { s with
    verdicts := s.chooseNext.verdicts, replies := s.chooseNext.replies, forwardFifo := s.chooseNext.forwardFifo
    controllerTx := s.chooseNext.controllerTx, sequence := s.chooseNext.sequence, proof := s.chooseNext.proof } := by
  unfold State.chooseNext
  split <;> rfl

end

/-! ## Capture (R140 to R145) -/

theorem Header.default_inRange : Header.default.inRange = true := by decide

theorem State.CaptureWhole.zoneKept : ZoneKept State.CaptureWhole where
  act h hact := by
    cases hact with
    | modZone => exact { h with }
    | raise => exact { h with }
    | abandonProof => rw [State.abandonProof_eq]; exact { h with }
    | recomputeLines => exact { h with }
    | raiseTrigger => exact State.raiseTrigger_whole h _ _ _
  replaceTopology _ h := { h with }

theorem State.CaptureWhole.small {s t : State} (h : s.CaptureWhole) (hsmall : Small s t) : t.CaptureWhole := by
  cases hsmall with
  | stream => exact { h with }
  | counters => exact { h with }
  | forward => exact { h with }
  | sensorNext => exact { h with }
  | staged g hg => exact { h with stagedHeader := hg.header h.stagedHeader }
  | feeders => exact { h with }
  | setNode => exact { h with }
  | record => exact State.pushRecord_whole h _ _
  | trigger => exact State.raiseTrigger_whole h _ _ _
  | quiet => exact { h with }
  | raise => exact { h with }

/-- Empty rings and FREE slots are whole. -/
theorem State.CaptureWhole.cleared {s : State} (hrings : s.rings = .all []) (hslots : s.slots = .all .empty)
    (hmissed : s.missed = 0) (ha : s.active.header.inRange = true) (hst : s.staged.header.inRange = true) :
    s.CaptureWhole where
  rings f := by simp [hrings]
  slots i := by rw [hslots, Four.get_all]; exact Slot.empty_whole
  oneFilling i j hi := by rw [hslots, Four.get_all] at hi; cases hi
  missed := by simp [hmissed]
  activeHeader := ha
  stagedHeader := hst

theorem State.CaptureWhole.free {s : State} (h : s.CaptureWhole) (i : Fin 4) :
    State.CaptureWhole { s with slots := s.slots.set i .empty } := by
  have hother (j : Fin 4) (hj : ((s.slots.set i .empty).get j).state = .filling) : j ≠ i := by
    rintro rfl
    rw [Four.get_set_same] at hj
    cases hj
  refine { h with slots := fun j => ?_, oneFilling := fun j k hj hk hf => ?_ }
  · rw [Four.get_set]
    split
    · exact Slot.empty_whole
    · exact h.slots j
  · simp only [Four.get_set_other _ _ (hother j hj), Four.get_set_other _ _ (hother k hk)] at hj hk hf
    exact h.oneFilling j k hj hk hf

theorem State.CaptureWhole.activate {s : State} (h : s.CaptureWhole) : s.activate.CaptureWhole := by
  have hswap : s.swapTables.CaptureWhole := { h with activeHeader := h.stagedHeader, stagedHeader := h.activeHeader }
  have hproof : (s.swapTables.reconcileProof s.active).CaptureWhole := by
    rw [State.reconcileProof_eq]; exact { hswap with }
  unfold State.activate
  rw [State.startRunning_eq]
  exact { State.CaptureWhole.zoneKept.recomputeAll hproof with }

theorem State.CaptureWhole.restart {s : State} (h : s.CaptureWhole) : s.restart.CaptureWhole := by
  have hclear : s.clearRuntime.CaptureWhole := .cleared rfl rfl rfl h.activeHeader h.stagedHeader
  exact { State.CaptureWhole.zoneKept.recomputeAll hclear with }

theorem State.CaptureWhole.kept : Kept State.CaptureWhole where
  pending _ h := { h with }
  tick h := { h with }
  hardReset _ _ := .cleared rfl rfl rfl Header.default_inRange Header.default_inRange
  small h hsmall := h.small hsmall
  changeNode h _ _ _ := zoneKept.changeNode { h with }
  evaluateZone z h := zoneKept.acts h (State.evaluateZone_acts _ z)
  blindTrip h _ _ := zoneKept.acts h (State.blindTrip_acts _ _)
  presence _ _ h := { h with }
  release _ h _ _ _ := zoneKept.acts h (State.release_acts _ _ _ _)
  free i h := h.free i
  proveZone _ _ _ h _ := { h with }
  proveLine _ _ _ h _ := { h with }
  completeZone _ _ h _ := { h with }
  completeLine _ h _ := { h with }
  activate h _ _ := h.activate
  restart h := h.restart
  flushHeld h := { h with }
  replies _ h := { h with }
  transmit h := by rw [State.chooseNext_eq]; exact { h with }
  queued h _ := { h with }

/-- Settles O58: every act of a command leaves the rings and slots whole, a trigger and a record by the laws of capture. -/
theorem stepKeepsTheCaptureWhole : Obligations.StepKeepsTheCaptureWhole :=
  fun _ _ h hstep => State.CaptureWhole.kept.step h hstep

/-! ## Node records and counters (R2, R19, R42, R134) -/

theorem NodeRun.fresh_inBounds : NodeRun.fresh.InBounds where
  channels ph := by cases ph <;> constructor <;> simp [NodeRun.fresh, PerPhase.all, PerPhase.get, Channel.fresh]
  health := rfl
  warmUp := Nat.zero_le _

theorem ChannelProfile.default_inRange : ChannelProfile.default.inRange = true := rfl

/-- Every profile that a node record names is in range, the default one where the copy has none of the number. -/
theorem Tables.profileOf_inRange {t : Tables} (h : t.channelProfiles.all ChannelProfile.inRange = true) (r : NodeRec) :
    (t.profileOf r).inRange = true := by
  unfold Tables.profileOf Tables.channelProfile
  rw [List.getD_eq_getElem?_getD]
  cases hp : t.channelProfiles[r.channelProfile.val]? with
  | none => rfl
  | some p => exact List.all_eq_true.mp h p (List.mem_of_getElem? hp)

/-- The record of a kept node stays in its bounds, with its voltages cleared or not (R39, R57). -/
theorem NodeRun.kept_inBounds {n : NodeRun} (h : n.InBounds) (old new : NodeRec) : (n.kept old new).InBounds := by
  have hclear : NodeRun.InBounds { n with channels := n.channels.map Channel.clearVoltage } :=
    { h with
      channels := fun ph => by
        rw [PerPhase.get_map]
        exact { h.channels ph with vLast := Nat.zero_le _ } }
  have hcase : (if new.voltageSensing = true then n
      else { n with channels := n.channels.map Channel.clearVoltage }).InBounds := by
    split <;> assumption
  have hfinal (m : NodeRun) (hm : m.InBounds) :
      (if m.state = .barred then m
        else { m with state := .expected, seqExpect := none, silenceDeadline := none, warmUp := 0 }).InBounds := by
    split
    · exact hm
    · exact { hm with warmUp := Nat.zero_le _ }
  unfold NodeRun.kept
  split
  · exact h
  · exact hfinal _ hcase

theorem State.node?_of_nodes {s : State} {i : Nat} {n : NodeRun} (h : s.node? i = some n) : some n ∈ s.nodes :=
  List.mem_of_getElem? (Option.join_eq_some_iff.mp h)

/-- A node of the new copy has its kept record or a new one (R38, R39). -/
theorem node?_reconcileNodes {old new : Tables} {runs : List (Option NodeRun)} {s : State} {i : Nat} {n : NodeRun}
    (hs : s.nodes = reconcileNodes old new runs) (h : s.node? i = some n) :
    n = .fresh ∨ ∃ (k : Nat) (m : NodeRun) (o r : NodeRec), (runs[k]?).join = some m ∧ n = m.kept o r := by
  have hmem := State.node?_of_nodes h
  rw [hs] at hmem
  obtain ⟨j, -, hj⟩ := List.mem_map.mp hmem
  obtain ⟨r, -, rfl⟩ := Option.map_eq_some_iff.mp hj
  unfold reconcileNode
  split
  · rename_i o m hk
    obtain ⟨k, -, hk⟩ := Option.bind_eq_some_iff.mp hk
    obtain ⟨_, -, hk⟩ := Option.bind_eq_some_iff.mp hk
    obtain ⟨_, hm, hk⟩ := Option.map_eq_some_iff.mp hk
    cases hk
    exact .inr ⟨k, m, o, r, hm, rfl⟩
  · exact .inl rfl

namespace State.NodesBounded

theorem zoneKept : ZoneKept State.NodesBounded where
  act h hact := by
    cases hact with
    | modZone => exact { h with }
    | raise => exact { h with }
    | abandonProof => rw [State.abandonProof_eq]; exact { h with }
    | recomputeLines => exact { h with }
    | raiseTrigger => rw [State.raiseTrigger_frame]; exact { h with }
  replaceTopology _ h := { h with }

theorem setNode {s : State} (h : s.NodesBounded) {i : Nat} {n m : NodeRun} (hn : s.node? i = some n) (hm : m.InBounds) :
    (s.setNode i m).NodesBounded where
  nodes j k hk := by
    rw [State.node?_setNode hn] at hk
    split at hk
    · cases hk; exact hm
    · exact h.nodes j k hk
  counters := h.counters
  activeProfiles := h.activeProfiles
  stagedProfiles := h.stagedProfiles

theorem small {s t : State} (h : s.NodesBounded) (hsmall : Small s t) : t.NodesBounded := by
  cases hsmall with
  | stream => exact { h with }
  | counters c hc => exact { h with counters := hc h.counters }
  | forward => exact { h with }
  | sensorNext => exact { h with }
  | staged g hg => exact { h with stagedProfiles := hg.channels h.stagedProfiles }
  | feeders => exact { h with }
  | setNode i n m hn hstep _ =>
    exact h.setNode hn ((hstep .default).bounds ChannelProfile.default_inRange (h.nodes i n hn))
  | record => rw [State.pushRecord_eq]; exact { h with }
  | trigger => rw [State.raiseTrigger_frame]; exact { h with }
  | quiet => exact { h with }
  | raise => exact { h with }

theorem activate {s : State} (h : s.NodesBounded) : s.activate.NodesBounded := by
  have hswap : s.swapTables.NodesBounded :=
    { counters := h.counters
      activeProfiles := h.stagedProfiles
      stagedProfiles := h.activeProfiles
      nodes := fun i n hn => by
        obtain rfl | ⟨k, m, o, r, hm, rfl⟩ := node?_reconcileNodes rfl hn
        · exact NodeRun.fresh_inBounds
        · exact NodeRun.kept_inBounds (h.nodes k m hm) o r }
  have hproof : (s.swapTables.reconcileProof s.active).NodesBounded := by
    rw [State.reconcileProof_eq]; exact { hswap with }
  unfold State.activate
  rw [State.startRunning_eq]
  exact { zoneKept.recomputeAll hproof with }

theorem node?_clearRuntime {s : State} {i : Nat} {n : NodeRun} (h : s.clearRuntime.node? i = some n) : n = .fresh := by
  obtain ⟨_, -, hn⟩ := List.mem_map.mp (State.node?_of_nodes h)
  obtain ⟨_, -, rfl⟩ := Option.map_eq_some_iff.mp hn
  rfl

theorem counters_zero {s : State} (h : s.counters = .zero) : ∀ k ∈ s.counters.toList, k ≤ 4294967295 := by
  rw [h]; decide

theorem restart {s : State} (h : s.NodesBounded) : s.restart.NodesBounded := by
  have hclear : s.clearRuntime.NodesBounded :=
    { h with
      nodes := fun i n hn => by rw [node?_clearRuntime hn]; exact NodeRun.fresh_inBounds
      counters := counters_zero rfl }
  exact { zoneKept.recomputeAll hclear with }

theorem node?_hardReset (strap : BitVec 2) (l : List Instr) (i : Nat) :
    State.node? { State.reset with strap := strap, pending := l } i = none := by
  simp [State.node?, State.reset, List.getElem?_replicate]
  split <;> rfl

theorem kept : Kept State.NodesBounded where
  pending _ h := { h with }
  tick h := { h with }
  hardReset strap l :=
    { nodes := fun i n hn => by rw [node?_hardReset] at hn; cases hn
      counters := counters_zero rfl
      activeProfiles := rfl
      stagedProfiles := rfl }
  small h hsmall := h.small hsmall
  changeNode {s i r n m} h _ hn hstep :=
    zoneKept.changeNode (h.setNode hn (hstep.bounds (Tables.profileOf_inRange h.activeProfiles r) (h.nodes i n hn)))
  evaluateZone z h := zoneKept.acts h (State.evaluateZone_acts _ z)
  blindTrip h _ _ := zoneKept.acts h (State.blindTrip_acts _ _)
  presence _ _ h := { h with }
  release _ h _ _ _ := zoneKept.acts h (State.release_acts _ _ _ _)
  free _ h := { h with }
  proveZone _ _ _ h _ := { h with }
  proveLine _ _ _ h _ := { h with }
  completeZone _ _ h _ := { h with }
  completeLine _ h _ := { h with }
  activate h _ _ := h.activate
  restart h := h.restart
  flushHeld h := { h with }
  replies _ h := { h with }
  transmit h := by rw [State.chooseNext_eq]; exact { h with }
  queued h _ := { h with }

end State.NodesBounded

/-- Settles O23: every change of a node's record keeps its numbers in range (`NodeStep`), a counter only gains up to its
top, and ACTIVATE and RESTART make kept or new records. -/
theorem stepKeepsTheNodesAndCountersBounded : Obligations.StepKeepsTheNodesAndCountersBounded :=
  fun _ _ h hstep => State.NodesBounded.kept.step h hstep

end Sys2Proof.Machine

/-!
The trip lines (R112 to R117), and what stands until a command of its own ends it: a trip (R91, R104) and a FROZEN slot
(R145); what no command but a hard reset or ACTIVATE moves (R1, R135, R152).
-/

namespace Sys2Proof.Machine

/-! ## The lines -/

namespace State.LinesFollow

variable {s : State}

/-- Changes outside lines, proof, presence and the ACTIVE copy that keep trips keep the lines following. -/
theorem modRun (h : s.LinesFollow) (z : Nat) (g : ZoneRecord → ZoneRecord)
    (hg : ∀ x, s.zone? z = some x → Zone.isTripped { x with run := g x.run } = x.isTripped) : (s.modRun z g).LinesFollow := by
  refine h.congr rfl rfl rfl (fun y => ?_) fun _ => rfl
  rw [State.zone?_modRun]
  split
  · rename_i hy
    subst hy
    cases hx : s.zone? y with
    | none => rfl
    | some x => exact hg x hx
  · rfl

theorem raise (h : s.LinesFollow) (z : Nat) (kind : VerdictKind) : (s.raise z kind).LinesFollow := h

theorem raiseTrigger (h : s.LinesFollow) (f : Fin 4) (kind : TriggerKind) (subject : Option Nat) :
    (s.raiseTrigger f kind subject).LinesFollow := by
  rw [State.raiseTrigger_frame]; exact h

theorem enterSuspect (h : s.LinesFollow) {z : Nat} {x : Zone} (hx : s.zone? z = some x) (ht : x.isTripped = false) :
    (s.enterSuspect z).LinesFollow := by
  refine (h.modRun z _ fun y hy => ?_).raiseTrigger _ _ _
  cases hx.symm.trans hy
  rw [ht]
  simp [Zone.isTripped, ZoneRecord.toSuspect]

theorem raiseWouldTrip (h : s.LinesFollow) (z : Nat) : (s.raiseWouldTrip z).LinesFollow := by
  unfold State.raiseWouldTrip
  split
  · exact (h.modRun z _ fun _ _ => rfl).raise _ _
  · exact h

theorem confirm (h : s.LinesFollow) (z : Nat) : (s.confirm z).LinesFollow := by
  unfold State.confirm
  split
  · exact h
  · exact (State.recomputeLines_linesFollow _).raiseTrigger _ _ _

theorem takeDecision (h : s.LinesFollow) {z : Nat} {x : Zone} (hx : s.zone? z = some x) (ht : x.isTripped = false)
    (d : Decision) : (s.takeDecision z d).LinesFollow := by
  cases d with
  | stay => exact h
  | suspect => exact h.enterSuspect hx ht
  | suspectWouldTrip => exact (h.enterSuspect hx ht).raiseWouldTrip z
  | wouldTrip => exact h.raiseWouldTrip z
  | confirm => exact h.confirm z
  | normal =>
    refine h.modRun z _ fun y hy => ?_
    cases hx.symm.trans hy
    rw [ht]
    simp [Zone.isTripped, ZoneRecord.toNormal]


theorem handOff (h : s.LinesFollow) (z : Nat) (new : Evaluability) : (s.handOff z new).LinesFollow :=
  h.congr (s.handOff_lines z new) (s.handOff_outside z new).active (s.handOff_outside z new).presence
    (fun y => s.handOff_tripped z y new) (s.handOff_keepsPulse z new)

end State.LinesFollow

/-- A zone that R64 selects is NORMAL or SUSPECT. -/
theorem Zone.selected_iff {x : Zone} : x.selected = true
    ↔ (x.run.state = .normal ∨ x.run.state = .suspect) ∧ x.topo.evaluability = .evaluable := decide_eq_true_iff

theorem Zone.isTripped_of_selected {x : Zone} (h : x.selected = true) : x.isTripped = false := by
  rcases (Zone.selected_iff.mp h).1 with h | h <;> simp [Zone.isTripped, h]

/-- After a release the zone is NORMAL, and following its topology is a hand-off of it (R94, R96, R97). -/
theorem State.followTopology_of_normal {s : State} {z : Nat} {x : Zone} (hx : s.zone? z = some x)
    (h : x.run.state = .normal) : s.followTopology z = s.handOff z x.topo.evaluability := by
  simp only [State.followTopology, State.handOff, hx, h]
  cases x.topo.evaluability <;> rfl

/-- The state of a release before the zone follows its topology (R92, R93). -/
def State.released (s : State) (z trips : Nat) (memory : Option Time) : State :=
  ((s.modZone z fun x =>
    { x with run := x.run.released trips memory, eval := { x.eval.markReseed with evidence := 0 } }).raise z
      .cleared).recomputeLines

theorem State.zone?_released (s : State) (z trips : Nat) (memory : Option Time) (y : Nat) :
    (s.released z trips memory).zone? y = if y = z then (s.zone? y).map fun x =>
        { x with run := x.run.released trips memory, eval := { x.eval.markReseed with evidence := 0 } }
      else s.zone? y := State.zone?_modZone s z y _

theorem State.release_eq_handOff {s : State} {z trips : Nat} {memory : Option Time} {x : Zone} (hx : s.zone? z = some x) :
    s.release z trips memory = (s.released z trips memory).handOff z x.topo.evaluability := by
  have hr : (s.released z trips memory).zone? z = some
      { x with run := x.run.released trips memory, eval := { x.eval.markReseed with evidence := 0 } } := by
    rw [State.zone?_released, if_pos rfl, hx]; rfl
  have hfollow := State.followTopology_of_normal hr rfl
  exact hfollow

theorem State.LinesFollow.evaluateZone {s : State} (h : s.LinesFollow) (z : Nat) : (s.evaluateZone z).LinesFollow := by
  unfold State.evaluateZone
  split
  · exact h
  · rename_i x hx
    split
    · exact h
    · split
      · rename_i hsel
        have hmod (e : Evaluation) : (s.modZone z fun y => { y with eval := e }).LinesFollow := by
          refine h.congr rfl rfl rfl (fun y => ?_) fun _ => rfl
          rw [State.zone?_modZone]
          split
          · cases s.zone? y <;> rfl
          · rfl
        have hz (e : Evaluation) : (s.modZone z fun y => { y with eval := e }).zone? z = some { x with eval := e } := by
          rw [State.zone?_modZone_same, hx]; rfl
        dsimp only
        refine (hmod _).takeDecision (hz _) ?_ _
        exact Zone.isTripped_of_selected (x := x) hsel
      · exact h

theorem State.LinesFollow.small {s t : State} (h : s.LinesFollow) (hsmall : Small s t) : t.LinesFollow := by
  cases hsmall with
  | stream => exact h
  | counters => exact h
  | forward => exact h
  | sensorNext => exact h
  | staged => exact h
  | feeders => exact h
  | setNode => exact h
  | record => rw [State.pushRecord_eq]; exact h
  | trigger => exact h.raiseTrigger _ _ _
  | quiet z g hg =>
    refine h.congr rfl rfl rfl (fun y => ?_) fun _ => rfl
    rw [State.zone?_modZone]
    split
    · rename_i hy
      subst hy
      cases hx : s.zone? y with
      | none => rfl
      | some x => simp [Zone.isTripped, (hg x hx).state]
    · rfl
  | raise => exact h

theorem State.LinesFollow.flushHeld {s : State} (h : s.LinesFollow) : s.flushHeld.LinesFollow :=
  h.congr rfl rfl rfl (fun _ => rfl) s.flushHeld_keepsPulse

/-- No line is asserted where none has a policy, and no pulse runs. -/
theorem State.LinesFollow.hardReset (strap : BitVec 2) (l : List Instr) :
    State.LinesFollow { State.reset with strap := strap, pending := l } := by
  intro i
  have hreset : State.policyCondition { State.reset with strap := strap, pending := l } i = false := by
    simp [State.policyCondition, State.reset, Tables.empty, Header.default]
  rw [hreset]
  exact Four.get_all _ _

theorem State.LinesFollow.kept : Kept State.LinesFollow where
  pending _ h := h
  tick h := h
  hardReset := .hardReset
  small h hsmall := h.small hsmall
  changeNode {s i r n m} h _ _ _ := by
    unfold State.changeNode
    split
    · exact h
    · exact State.recompute_linesFollow (s := s.setNode i m) h _
  evaluateZone z h := h.evaluateZone z
  blindTrip _ _ _ := State.recomputeLines_linesFollow _
  presence _ _ _ := State.recomputeLines_linesFollow _
  release _ _ hx _ _ := by
    rw [State.release_eq_handOff hx]
    exact State.LinesFollow.handOff (State.recomputeLines_linesFollow _) _ _
  free _ h := h
  proveZone _ _ _ h hp := h.congr rfl rfl rfl (fun _ => rfl) fun l => by simp [State.pulseOn, zoneProof, hp]
  proveLine _ _ _ _ _ := State.recomputeLines_linesFollow _
  completeZone _ _ h hp :=
    h.congr rfl rfl rfl (fun _ => rfl) (State.completeProof_keepsPulse (by rw [hp]; decide) _ _)
  completeLine _ _ _ := State.recomputeLines_linesFollow _
  activate _ _ _ := by
    unfold State.activate
    rw [State.startRunning_eq]
    exact State.recomputeLines_linesFollow _
  restart _ := State.recomputeLines_linesFollow _
  flushHeld h := h.flushHeld
  replies _ h := h
  transmit h := by
    unfold State.chooseNext
    split
    · exact h
    · exact State.LinesFollow.flushHeld h
    · exact h
    · exact h
  queued h _ := h

/-- Settles O54: the lines are recomputed by every act that moves presence, a trip or the pulse. -/
theorem stepKeepsTheLinesFollowing : Obligations.StepKeepsTheLinesFollowing :=
  fun _ _ h hstep => State.LinesFollow.kept.step h hstep

/-! ## What stands until a command of its own ends it -/

/-- A property that every act keeps but those that end it: a hard reset, a release, the freeing of a slot, ACTIVATE,
RESTART ENGINE. -/
structure Stands (P : State → Prop) : Prop where
  small : ∀ {s t : State}, P s → Small s t → P t
  changeNode : ∀ {s : State} (i : Nat) (f : Fin 4) (n m : NodeRun), P s → P (s.changeNode i f n m)
  evaluateZone : ∀ {s : State} (z : Nat), P s → P (s.evaluateZone z)
  blindTrip : ∀ {s : State} {z : Nat} {x : Zone}, P s → s.zone? z = some x → x.run.state = .degraded → P (s.blindTrip z)
  presence : ∀ {s : State} (p : Presence) (d : Option Time), P s → P { s with presence := p, presenceDeadline := d }
  proof : ∀ {s : State} (p : Proof), P s → P { s with proof := p }
  lines : ∀ {s : State} (l : Four Bool), P s → P { s with lines := l }
  replies : ∀ {s : State} (r : List ReplyEntry), P s → P { s with replies := r }
  transmit : ∀ {s : State}, P s → P s.chooseNext
  queued : ∀ {s : State} (rest frames : List Frame), P s → P { s with awaitingRouting := rest, sensorQueue := frames }

/-- What a command may do to a property that only some commands end. -/
structure Spares (P : State → Prop) (s : State) (c : Instr) : Prop where
  hardReset : ∀ strap, c = .hardReset strap → P { State.reset with strap := strap, pending := s.pending }
  release : ∀ tag i trips memory, c = .releaseZone tag [i] ∨ c = .clearLockout tag [i] → P (s.release i.toNat trips memory)
  free : ∀ tag b abort (i : Fin 4), c = .freeCapture tag [b, abort] → b.toNat = i.val →
    P { s with slots := s.slots.set i .empty }
  activate : ∀ tag, c = .activate tag [] → P s.activate
  restart : ∀ tag params, c = .restartEngine tag params → P s.restart

section
variable {P : State → Prop} {s t : State} {c : Instr}

theorem Stands.smalls (k : Stands P) (hs : P s) (h : Smalls s t) : P t := by
  induction h with
  | refl => exact hs
  | tail _ hstep ih => exact k.small ih hstep

theorem Stands.recomputeLines (k : Stands P) (h : P s) : P s.recomputeLines :=
  k.proof (s := { s with lines := s.recomputeLines.lines }) s.recomputeLines.proof (k.lines _ h)

theorem Stands.flushHeld (k : Stands P) (h : P s) : P s.flushHeld :=
  k.proof (s := { s with replies := s.flushHeld.replies }) s.flushHeld.proof (k.replies _ h)

theorem Stands.completeProof (k : Stands P) (h : P s) (status : Status) (data : List Byte) :
    P (s.completeProof status data) := k.proof (s.completeProof status data).proof h

theorem Stands.effect (k : Stands P) (hs : P s) (hc : Spares P s c) (h : Effect s c t) : P t := by
  cases h with
  | small h => exact k.smalls hs h
  | changeNode h _ _ _ => exact k.changeNode _ _ _ _ (k.smalls hs h)
  | blindTrip hx h => exact k.blindTrip hs hx h
  | presence h => exact k.recomputeLines (k.presence _ _ (k.smalls hs h))
  | release hcommand _ _ _ _ => exact hc.release _ _ _ _ hcommand
  | free hi => exact hc.free _ _ _ _ rfl hi
  | proveZone _ _ => exact k.proof _ hs
  | proveLine _ => exact k.recomputeLines (k.proof _ hs)
  | cancelZone _ => exact k.completeProof hs _ _
  | cancelPulse _ => exact k.recomputeLines (k.completeProof hs _ _)
  | activate _ _ => exact hc.activate _ rfl

theorem Stands.shadowEvaluation (k : Stands P) (hs : P s) (f : Fin 4) : P (s.shadowEvaluation f) := by
  unfold State.shadowEvaluation
  split
  · exact hs
  · exact k.flushHeld (k.completeProof hs _ _)

theorem Stands.feederExpiry (k : Stands P) (hs : P s) (f : Fin 4) : P (s.feederExpiry f) := by
  have hzones : ∀ (zs : List Nat) (t : State), P t → P (zs.foldl State.evaluateZone t) := by
    intro zs
    induction zs with
    | nil => exact fun _ ht => ht
    | cons z zs ih => exact fun t ht => ih _ (k.evaluateZone z ht)
  have hshadow := k.shadowEvaluation (k.smalls hs (s.latchMode_smalls f)) f
  exact k.flushHeld (hzones _ _ (k.small hshadow (State.rearm_small _ f)))

/-- Such a property stands at a command that spares it; `hrouted` is what a routed frame's command does. -/
theorem Stands.did (k : Stands P) (hs : P s) (hc : Spares P s c) (h : Did s c t)
    (hrouted : c = .controllerFrameRouting → ∀ rest code tag params,
      Machine.exec (commandOf code tag params) { s with awaitingRouting := rest } = .next t → P t) : P t := by
  cases h with
  | hardReset => exact hc.hardReset _ rfl
  | event h _ => exact k.effect hs hc h
  | flushed h => exact k.flushHeld (k.effect hs hc h)
  | answered _ h => exact k.flushHeld (k.replies _ (k.effect hs hc h))
  | feederExpiry => exact k.feederExpiry hs _
  | pulseExpiry _ => exact k.flushHeld (k.recomputeLines (k.completeProof hs _ _))
  | transmit => exact k.transmit hs
  | restart => exact k.flushHeld (k.replies _ (hc.restart _ _ rfl))
  | queued _ _ => exact k.queued _ _ hs
  | routed _ h => exact hrouted rfl _ _ _ _ h

end

/-! ## A FROZEN slot (R145) -/

/-- Slot `k` holds what it held. -/
def State.SlotIs (k : Fin 4) (x : Slot) (s : State) : Prop := s.slots.get k = x

theorem State.SlotIs.zoneKept {k : Fin 4} {x : Slot} (hx : x.state = .frozen) : ZoneKept (State.SlotIs k x) where
  act h hact := by
    cases hact with
    | modZone => exact h
    | raise => exact h
    | abandonProof => rw [State.abandonProof_eq]; exact h
    | recomputeLines => exact h
    | raiseTrigger => exact (State.raiseTrigger_frozen (by rwa [h]) _ _ _).trans h
  replaceTopology _ h := h

theorem State.SlotIs.small {k : Fin 4} {x : Slot} (hx : x.state = .frozen) {s t : State} (h : s.SlotIs k x)
    (hsmall : Small s t) : t.SlotIs k x := by
  cases hsmall with
  | stream => exact h
  | counters => exact h
  | forward => exact h
  | sensorNext => exact h
  | staged => exact h
  | feeders => exact h
  | setNode => exact h
  | record => exact (State.pushRecord_frozen (by rwa [h]) _ _).trans h
  | trigger => exact (State.raiseTrigger_frozen (by rwa [h]) _ _ _).trans h
  | quiet => exact h
  | raise => exact h

theorem State.SlotIs.stands {k : Fin 4} {x : Slot} (hx : x.state = .frozen) : Stands (State.SlotIs k x) where
  small h hsmall := h.small hx hsmall
  changeNode _ _ _ _ h := (zoneKept hx).changeNode h
  evaluateZone z h := (zoneKept hx).acts h (State.evaluateZone_acts _ z)
  blindTrip h _ _ := (zoneKept hx).acts h (State.blindTrip_acts _ _)
  presence _ _ h := h
  proof _ h := h
  lines _ h := h
  replies _ h := h
  transmit h := by rw [State.chooseNext_eq]; exact h
  queued _ _ h := h

theorem State.SlotIs.activate {k : Fin 4} {x : Slot} (hx : x.state = .frozen) {s : State} (h : s.SlotIs k x) :
    s.activate.SlotIs k x := by
  have hproof : (s.swapTables.reconcileProof s.active).SlotIs k x := by rw [State.reconcileProof_eq]; exact h
  unfold State.activate
  rw [State.startRunning_eq]
  exact (zoneKept hx).recomputeAll hproof

/-- Settles O60: triggers and records pass a FROZEN slot by, and no other act but the freeing writes one. -/
theorem frozenSlotStandsUntilFreed : Obligations.FrozenSlotStandsUntilFreed := by
  intro s t c k h hx hrouting hreset hrestart hfree
  have hs : s.SlotIs k (s.slots.get k) := rfl
  refine (State.SlotIs.stands hx).did hs ?_ (exec_did h) fun hc => absurd hc hrouting
  exact {
    hardReset := fun strap hc => absurd hc (hreset strap)
    release := fun _ _ _ _ _ => (State.SlotIs.zoneKept hx).acts hs (State.release_acts _ _ _ _)
    free := fun tag b abort i hc hi => Four.get_set_other _ _ fun hk => hfree tag b abort (hk ▸ hi) hc
    activate := fun _ _ => hs.activate hx
    restart := fun tag params hc => absurd hc (hrestart tag params) }

/-! ## A trip (R91, R104) -/

/-- What stands of a tripped zone. -/
structure Zone.SameTrip (x y : Zone) : Prop where
  state : y.run.state = x.run.state
  reason : y.run.reason = x.run.reason
  evidence : y.eval.evidence = x.eval.evidence
  score : y.eval.score = x.eval.score
  faulted : y.eval.faulted = x.eval.faulted

theorem Zone.SameTrip.trans {x y w : Zone} (h : x.SameTrip y) (k : y.SameTrip w) : x.SameTrip w :=
  ⟨k.state.trans h.state, k.reason.trans h.reason, k.evidence.trans h.evidence, k.score.trans h.score,
    k.faulted.trans h.faulted⟩

theorem Zone.SameTrip.isTripped {x y : Zone} (h : x.SameTrip y) (hx : x.isTripped = true) : y.isTripped = true := by
  rw [← hx, Zone.isTripped, Zone.isTripped, h.state]

/-- The trip of zone `z` stands as it stood in `x`. -/
def State.TripStands (z : Nat) (x : Zone) (s : State) : Prop := ∃ y, s.zone? z = some y ∧ x.SameTrip y

namespace State.TripStands

variable {z : Nat} {x : Zone} {s t : State}

theorem of_zone?_eq (h : s.TripStands z x) (hz : t.zone? z = s.zone? z) : t.TripStands z x := by
  obtain ⟨y, hy, hxy⟩ := h
  exact ⟨y, hz.trans hy, hxy⟩

/-- A hand-off reaches another zone, or is held (R91). -/
theorem handOff (hx : x.isTripped = true) (h : s.TripStands z x) (w : Nat) (new : Evaluability) :
    (s.handOff w new).TripStands z x := by
  by_cases hw : z = w
  · subst hw
    obtain ⟨y, hy, hxy⟩ := h
    rw [State.handOff_of_tripped hy (hxy.isTripped hx)]
    exact ⟨y, hy, hxy⟩
  · exact h.of_zone?_eq (s.handOff_keeps w new z hw)

theorem recompute (hx : x.isTripped = true) (h : s.TripStands z x) (f : Fin 4) : (s.recompute f).TripStands z x := by
  have hoffs : ∀ (offs : List (Nat × Evaluability)) (t : State), t.TripStands z x →
      (offs.foldl (fun t h => t.handOff h.1 h.2) t).TripStands z x := by
    intro offs
    induction offs with
    | nil => exact fun _ ht => ht
    | cons off offs ih => exact fun t ht => ih _ (ht.handOff hx _ _)
  refine hoffs _ _ ?_
  obtain ⟨y, hy, hxy⟩ := h
  by_cases hz : z ∈ s.active.zonesOf f
  · refine ⟨y.withTopology (s.newTopology z), by rw [State.zone?_replaceTopology, if_pos hz, hy]; rfl, hxy.trans ?_⟩
    unfold Zone.withTopology
    constructor <;> (dsimp only; try split) <;> rfl
  · exact ⟨y, by rw [State.zone?_replaceTopology, if_neg hz, hy], hxy⟩

/-- R64 does not select a zone that is tripped. -/
theorem evaluateZone (hx : x.isTripped = true) (h : s.TripStands z x) (w : Nat) : (s.evaluateZone w).TripStands z x := by
  by_cases hw : z = w
  · subst hw
    obtain ⟨y, hy, hxy⟩ := h
    have hsel : y.selected = false := by
      by_contra hsel
      have := Zone.isTripped_of_selected (Bool.not_eq_false _ ▸ hsel)
      rw [hxy.isTripped hx] at this
      cases this
    refine ⟨y, ?_, hxy⟩
    simp only [State.evaluateZone, hy, hsel]
    split <;> exact hy
  · exact h.of_zone?_eq (s.evaluateZone_keeps w z hw)

theorem small (h : s.TripStands z x) (hsmall : Small s t) : t.TripStands z x := by
  cases hsmall with
  | stream => exact h
  | counters => exact h
  | forward => exact h
  | sensorNext => exact h
  | staged => exact h
  | feeders => exact h
  | setNode => exact h
  | record => rw [State.pushRecord_eq]; exact h
  | trigger => rw [State.raiseTrigger_frame]; exact h
  | quiet w g hg =>
    by_cases hw : z = w
    · subst hw
      obtain ⟨y, hy, hxy⟩ := h
      have hq := hg y hy
      exact ⟨g y, by rw [State.zone?_modZone_same, hy]; rfl,
        hxy.trans ⟨hq.state, hq.reason, hq.evidence, hq.score, hq.faulted⟩⟩
    · exact h.of_zone?_eq (State.zone?_modZone_other s g hw)
  | raise => exact h

theorem stands (hx : x.isTripped = true) : Stands (State.TripStands z x) where
  small h hsmall := h.small hsmall
  changeNode {s} i f n m h := by
    unfold State.changeNode
    split
    · exact h
    · exact recompute (s := s.setNode i m) hx h f
  evaluateZone w h := h.evaluateZone hx w
  blindTrip {s w y} h hy hdegraded := by
    have hw : z ≠ w := by
      rintro rfl
      obtain ⟨y', hy', hxy⟩ := h
      cases hy.symm.trans hy'
      have := hxy.isTripped hx
      simp [Zone.isTripped, hdegraded] at this
    exact h.of_zone?_eq (State.zone?_modZone_other s _ hw)
  presence _ _ h := h
  proof _ h := h
  lines _ h := h
  replies _ h := h
  transmit h := by rw [State.chooseNext_eq]; exact h
  queued _ _ h := h

end State.TripStands

/-- A release keeps every other zone. -/
theorem State.release_keeps (s : State) (z trips : Nat) (memory : Option Time) : s.KeepsOthers (s.release z trips memory) z := by
  intro y hy
  cases hx : s.zone? z with
  | none =>
    have hr : (s.released z trips memory).zone? z = none := by rw [State.zone?_released, if_pos rfl, hx]; rfl
    have : s.release z trips memory = s.released z trips memory := by
      change (s.released z trips memory).followTopology z = _
      simp [State.followTopology, hr]
    rw [this, State.zone?_released, if_neg hy]
  | some x => rw [State.release_eq_handOff hx, State.handOff_keeps _ z _ y hy, State.zone?_released, if_neg hy]

/-- Settles O59: hand-offs and evaluations pass a tripped zone by, and every other act on a zone's state is of a DEGRADED
zone or is a release. -/
theorem onlyReleaseOrRestartEndsATrip : Obligations.OnlyReleaseOrRestartEndsATrip := by
  intro s t c z x h hx hstate hrouting hreset hactivate hrestart hrelease
  have ht : x.isTripped = true := decide_eq_true hstate
  have hs : s.TripStands z x := ⟨x, hx, rfl, rfl, rfl, rfl, rfl⟩
  have hspares : Spares (State.TripStands z x) s c :=
    { hardReset := fun strap hc => absurd hc (hreset strap)
      release := fun tag i trips memory hc => by
        refine hs.of_zone?_eq (s.release_keeps _ _ _ z fun hz => ?_)
        obtain ⟨hreleaseZone, hclearLockout⟩ := hrelease tag i hz.symm
        exact hc.elim hreleaseZone hclearLockout
      free := fun _ _ _ _ _ _ => hs
      activate := fun tag hc => absurd hc (hactivate tag [])
      restart := fun tag params hc => absurd hc (hrestart tag params) }
  obtain ⟨y, hy, hxy⟩ := (State.TripStands.stands ht).did hs hspares (exec_did h) fun hc => absurd hc hrouting
  exact ⟨y, hy, hxy.state, hxy.reason, hxy.evidence, hxy.score, hxy.faulted⟩

end Sys2Proof.Machine

/-!
The numbers and timers of zones and nodes (R19, R65, R77, R78, R83 to R99): every act keeps evidence, scores and trips in
range, and every deadline, flag and reason fitting its state.
-/

namespace Sys2Proof.Machine

/-! ## One zone -/

/-- A zone's numbers are in range and its timers fit its state. -/
structure Zone.Sound (x : Zone) : Prop where
  bounds : x.InBounds
  fits : x.run.Fits

namespace ZoneRecord.Fits

variable {r : ZoneRecord}

theorem stepDeadline_of_ne (h : r.Fits) (hs : r.state ≠ .suspect) : r.stepDeadline = none :=
  Option.not_isSome_iff_eq_none.mp fun hd => hs (h.step hd)

theorem wouldTrip_of_ne (h : r.Fits) (hs : r.state ≠ .suspect) : r.wouldTrip = false :=
  Bool.eq_false_iff.mpr fun hw => hs (h.wouldTrip hw)

theorem graceDeadline_of_ne (h : r.Fits) (hs : r.state ≠ .degraded) : r.graceDeadline = none :=
  Option.not_isSome_iff_eq_none.mp fun hd => hs (h.grace hd)

theorem fresh : ZoneRecord.fresh.Fits := by constructor <;> simp [ZoneRecord.fresh]

theorem toSuspect (hg : r.graceDeadline = none) (now : Time) (p : ZoneProfile) : (r.toSuspect now p).Fits := by
  constructor <;> simp [ZoneRecord.toSuspect, hg]

theorem toNormal (h : r.Fits) (hs : r.state = .suspect) : r.toNormal.Fits := by
  have hgrace := h.graceDeadline_of_ne (by simp [hs])
  constructor <;> simp [ZoneRecord.toNormal, hgrace]

theorem confirmed (p : ZoneProfile) : (r.confirmed p).Fits := by
  have hstate : confirmState p r.trips = .tripped ∨ confirmState p r.trips = .lockout := by
    unfold confirmState; split <;> simp
  rcases hstate with h | h <;> constructor <;> simp [ZoneRecord.confirmed, h]

theorem toAbsorbed : r.toAbsorbed.Fits := by constructor <;> simp [ZoneRecord.toAbsorbed]

theorem toDegraded (now : Time) (p : ZoneProfile) (reason : Reason) : (r.toDegraded now p reason).Fits := by
  constructor <;> simp [ZoneRecord.toDegraded]

theorem changeDegraded (h : r.Fits) (hs : r.state = .degraded) (reason : Reason) :
    ZoneRecord.Fits { r with reason := some reason } := { h with reason := by simp [hs] }

theorem blinded (h : r.Fits) (hs : r.state = .degraded) : r.blinded.Fits := by
  have hstep := h.stepDeadline_of_ne (by simp [hs])
  have hflag := h.wouldTrip_of_ne (by simp [hs])
  constructor <;> simp [ZoneRecord.blinded, hstep, hflag]

theorem released (h : r.Fits) (hs : r.state = .tripped ∨ r.state = .lockout) (trips : Nat) (memory : Option Time) :
    (r.released trips memory).Fits := by
  have hstep := h.stepDeadline_of_ne (by rcases hs with hs | hs <;> simp [hs])
  have hflag := h.wouldTrip_of_ne (by rcases hs with hs | hs <;> simp [hs])
  have hgrace := h.graceDeadline_of_ne (by rcases hs with hs | hs <;> simp [hs])
  constructor <;> simp [ZoneRecord.released, hstep, hflag, hgrace]

/-- The return to NORMAL of a zone that is not SUSPECT and runs no grace timer (R99). -/
theorem restored (h : r.Fits) (hs : r.state ≠ .suspect) (hg : r.graceDeadline = none) :
    ZoneRecord.Fits { r with state := .normal, reason := none } := by
  have hstep := h.stepDeadline_of_ne hs
  have hflag := h.wouldTrip_of_ne hs
  constructor <;> simp [hstep, hflag, hg]

end ZoneRecord.Fits

theorem scoreOf_le {w : Weights} (h : w.inRange = true) (x : Indications) : scoreOf w x ≤ 75 := by
  have hbit (c : Bool) {n : Nat} (hn : n ≤ 15) : (if c = true then n else 0) ≤ 15 := by split <;> omega
  simp only [Weights.inRange, within, Bool.and_eq_true, decide_eq_true_eq] at h
  obtain ⟨⟨⟨⟨⟨-, hopen⟩, -, hleak⟩, -, harc⟩, -, hmotion⟩, -, hlost⟩ := h
  have h1 := hbit x.open_ hopen
  have h2 := hbit x.leak hleak
  have h3 := hbit x.arc harc
  have h4 := hbit x.motion hmotion
  have h5 := hbit x.lost hlost
  unfold scoreOf
  omega

/-- What the state machine uses of a zone profile in range. -/
theorem ZoneProfile.inRange_uses {p : ZoneProfile} (h : p.inRange = true) : p.weights.inRange = true ∧ p.lockoutLimit ≤ 3 := by
  simp only [ZoneProfile.inRange, within, Bool.and_eq_true, decide_eq_true_eq] at h
  obtain ⟨⟨⟨⟨⟨⟨⟨⟨⟨-, hw⟩, -⟩, -⟩, -⟩, -⟩, -, hl⟩, -⟩, -⟩, -⟩ := h
  exact ⟨hw, hl⟩

/-- Every profile that a zone record names is in range, the default one where the copy has none of the number. -/
theorem Tables.zoneProfile_inRange {t : Tables} (h : t.zoneProfiles.all ZoneProfile.inRange = true) (n : Fin 16) :
    (t.zoneProfile n).inRange = true := by
  unfold Tables.zoneProfile
  rw [List.getD_eq_getElem?_getD]
  cases hp : t.zoneProfiles[n.val]? with
  | none => rfl
  | some p => exact List.all_eq_true.mp h p (List.mem_of_getElem? hp)

namespace Zone.InBounds

variable {x : Zone}

theorem fresh (z : Nat) : (Zone.fresh z).InBounds where
  evidence := Nat.zero_le _
  score := Nat.zero_le _
  phaseScores ph := by cases ph <;> exact Nat.zero_le _
  trips := Nat.zero_le _

theorem markReseed (h : x.InBounds) : Zone.InBounds { x with eval := x.eval.markReseed } :=
  { h with
    phaseScores := fun ph => by
      have := h.phaseScores ph
      simpa [Evaluation.markReseed] using this }

theorem withTopology (h : x.InBounds) (new : Topology) : (x.withTopology new).InBounds := by
  unfold Zone.withTopology
  split
  · exact { h.markReseed with }
  · exact { h with }

/-- The confirm counts a trip up to the lockout limit, which is 3 at most (R89). -/
theorem confirmed (h : x.InBounds) {p : ZoneProfile} (hp : p.inRange = true) :
    Zone.InBounds { x with run := x.run.confirmed p } :=
  { h with trips := Nat.le_trans (Nat.min_le_left _ _) (ZoneProfile.inRange_uses hp).2 }

theorem evaluate (h : x.InBounds) {p : ZoneProfile} (hp : p.inRange = true) (was : ZoneState) (now : Time)
    (ins : ZoneInputs) : Zone.InBounds { x with eval := x.eval.evaluate p was now ins } := by
  have hphase (ph : Phase) : (evalPhase p was ins ph (x.eval.perPhase.get ph)).score ≤ 75 :=
    scoreOf_le (ZoneProfile.inRange_uses hp).1 _
  refine { h with evidence := ?_, score := ?_, phaseScores := fun ph => ?_ }
  · change evidenceStep p x.eval.evidence _ ≤ 255
    unfold evidenceStep
    split
    · exact Nat.le_trans (Nat.sub_le _ _) h.evidence
    · exact Nat.min_le_left _ _
  · exact Nat.max_le.mpr ⟨hphase .a, Nat.max_le.mpr ⟨hphase .b, hphase .c⟩⟩
  · change ((PerPhase.of fun ph => evalPhase p was ins ph (x.eval.perPhase.get ph)).get ph).score ≤ 75
    rw [PerPhase.get_of]
    exact hphase ph

end Zone.InBounds

/-! ## All zones and nodes -/

/-- Zones and nodes are sound, under zone profiles in range. -/
structure State.Sound (s : State) : Prop where
  zones : ∀ z x, s.zone? z = some x → x.Sound
  nodes : ∀ i n, s.node? i = some n → n.Fits
  activeProfiles : s.active.zoneProfiles.all ZoneProfile.inRange
  stagedProfiles : s.staged.zoneProfiles.all ZoneProfile.inRange

theorem State.sound_iff {s : State} : s.Sound ↔ s.ZonesBounded ∧ s.TimersFit :=
  ⟨fun h => ⟨⟨fun z x hx => (h.zones z x hx).bounds, h.activeProfiles, h.stagedProfiles⟩, h.nodes,
      fun z x hx => (h.zones z x hx).fits⟩,
    fun ⟨hb, ht⟩ => ⟨fun z x hx => ⟨hb.zones z x hx, ht.zones z x hx⟩, ht.nodes, hb.activeProfiles, hb.stagedProfiles⟩⟩

namespace State.Sound

variable {s t : State} {z : Nat}

theorem profile_inRange (h : s.Sound) (z : Nat) : (s.profile z).inRange = true :=
  Tables.zoneProfile_inRange h.activeProfiles _

theorem modZone (h : s.Sound) (z : Nat) {g : Zone → Zone} (hg : ∀ x, s.zone? z = some x → x.Sound → (g x).Sound) :
    (s.modZone z g).Sound := by
  refine { h with zones := fun y w hw => ?_ }
  rw [State.zone?_modZone] at hw
  split at hw
  · rename_i hy
    subst hy
    obtain ⟨x, hx, rfl⟩ := Option.map_eq_some_iff.mp hw
    exact hg x hx (h.zones _ _ hx)
  · exact h.zones y w hw

/-- An act on the state record that counts no trip. -/
theorem modRun (h : s.Sound) (z : Nat) {g : ZoneRecord → ZoneRecord}
    (hg : ∀ x, s.zone? z = some x → x.run.Fits → (g x.run).Fits ∧ (g x.run).trips ≤ x.run.trips) : (s.modRun z g).Sound :=
  h.modZone z fun x hx hsound =>
    have ⟨hfits, htrips⟩ := hg x hx hsound.fits
    ⟨{ hsound.bounds with trips := Nat.le_trans htrips hsound.bounds.trips }, hfits⟩

theorem raise (h : s.Sound) (z : Nat) (kind : VerdictKind) : (s.raise z kind).Sound := { h with }

theorem recomputeLines (h : s.Sound) : s.recomputeLines.Sound := { h with }

theorem abandonProof (h : s.Sound) (z : Nat) : (s.abandonProof z).Sound := by
  rw [State.abandonProof_eq]; exact { h with }

theorem raiseTrigger (h : s.Sound) (f : Fin 4) (kind : TriggerKind) (subject : Option Nat) :
    (s.raiseTrigger f kind subject).Sound := by
  rw [State.raiseTrigger_frame]; exact { h with }

theorem enterSuspect (h : s.Sound) (hg : ∀ x, s.zone? z = some x → x.run.graceDeadline = none) : (s.enterSuspect z).Sound :=
  (h.modRun z fun x hx _ => ⟨.toSuspect (hg x hx) _ _, Nat.le_refl _⟩).raiseTrigger _ _ _

theorem enterAbsorbed (h : s.Sound) (z : Nat) : (s.enterAbsorbed z).Sound := by
  have hmod : (s.modZone z fun x => { x with run := x.run.toAbsorbed, eval := { x.eval with evidence := 0 } }).Sound :=
    h.modZone z fun _ _ hx => ⟨{ hx.bounds with evidence := Nat.zero_le _ }, .toAbsorbed⟩
  exact (hmod.abandonProof z).raise z _

theorem enterDegraded (h : s.Sound) (z : Nat) (reason : Reason) : (s.enterDegraded z reason).Sound :=
  ((h.modRun z fun _ _ _ => ⟨.toDegraded _ _ _, Nat.le_refl _⟩).abandonProof z).raise z _

theorem changeDegraded (h : s.Sound) {x : Zone} (hx : s.zone? z = some x) (hs : x.run.state = .degraded) (reason : Reason) :
    (s.changeDegraded z reason).Sound :=
  (h.modRun z fun y hy hfits => by cases hx.symm.trans hy; exact ⟨hfits.changeDegraded hs _, Nat.le_refl _⟩).raise z _

theorem restoreAbsorbed (h : s.Sound) {x : Zone} (hx : s.zone? z = some x) (hs : x.run.state = .absorbed) :
    (s.restoreAbsorbed z).Sound := by
  refine (h.modZone z fun y hy hsound => ?_).raise z _
  cases hx.symm.trans hy
  exact ⟨{ hsound.bounds.markReseed with },
    hsound.fits.restored (by simp [hs]) (hsound.fits.graceDeadline_of_ne (by simp [hs]))⟩

theorem restoreDegraded (h : s.Sound) {x : Zone} (hx : s.zone? z = some x) (hs : x.run.state = .degraded) :
    (s.restoreDegraded z).Sound := by
  have hclear : (s.modRun z fun r => { r with graceDeadline := none }).Sound :=
    h.modRun z fun _ _ hfits => ⟨{ hfits with grace := nofun }, Nat.le_refl _⟩
  have hrun (y : Zone) (hy : (s.modRun z fun r => { r with graceDeadline := none }).zone? z = some y) :
      y.run.state = .degraded ∧ y.run.graceDeadline = none := by
    rw [State.zone?_modRun, if_pos rfl, hx] at hy
    cases hy
    exact ⟨hs, rfl⟩
  unfold State.restoreDegraded
  dsimp only
  split
  · exact (hclear.enterSuspect fun y hy => (hrun y hy).2).raise z _
  · exact (hclear.modRun z fun y hy hfits =>
      ⟨hfits.restored (by simp [(hrun y hy).1]) (hrun y hy).2, Nat.le_refl _⟩).raise z _

theorem handOff (h : s.Sound) (z : Nat) (new : Evaluability) : (s.handOff z new).Sound := by
  unfold State.handOff
  split
  · exact h
  · rename_i x hx
    split
    · exact h
    · exact h
    · exact h
    · exact h.restoreAbsorbed hx ‹_›
    · exact h.enterDegraded z _
    · exact h.enterDegraded z _
    · exact h.enterAbsorbed z
    · exact h.restoreDegraded hx ‹_›
    · exact h.changeDegraded hx ‹_› _
    · exact h.changeDegraded hx ‹_› _
    · exact h
    · exact h.enterAbsorbed z
    · exact h.enterDegraded z _
    · exact h.enterDegraded z _
    · exact h
    · exact h.enterAbsorbed z
    · exact h.enterDegraded z _
    · exact h.enterDegraded z _

theorem recompute (h : s.Sound) (f : Fin 4) : (s.recompute f).Sound := by
  have hoffs : ∀ (offs : List (Nat × Evaluability)) (t : State), t.Sound →
      (offs.foldl (fun t h => t.handOff h.1 h.2) t).Sound := by
    intro offs
    induction offs with
    | nil => exact fun _ ht => ht
    | cons off offs ih => exact fun t ht => ih _ (ht.handOff _ _)
  refine hoffs _ _ { h with zones := fun y w hw => ?_ }
  rw [State.zone?_replaceTopology] at hw
  split at hw
  · obtain ⟨x, hx, rfl⟩ := Option.map_eq_some_iff.mp hw
    exact ⟨(h.zones y x hx).bounds.withTopology _, (h.zones y x hx).fits⟩
  · exact h.zones y w hw

theorem recomputeAll (h : s.Sound) : s.recomputeAll.Sound := by
  have hfeeders : ∀ (fs : List (Fin 4)) (t : State), t.Sound → (fs.foldl State.recompute t).Sound := by
    intro fs
    induction fs with
    | nil => exact fun _ ht => ht
    | cons f fs ih => exact fun t ht => ih _ (ht.recompute f)
  exact hfeeders _ _ h

/-! ### Evaluations -/

theorem raiseWouldTrip (h : s.Sound) (hs : ∀ x, s.zone? z = some x → x.run.state = .suspect) :
    (s.raiseWouldTrip z).Sound := by
  unfold State.raiseWouldTrip
  split
  · exact (h.modRun z fun x hx hfits => ⟨{ hfits with wouldTrip := fun _ => hs x hx }, Nat.le_refl _⟩).raise z _
  · exact h

theorem confirm (h : s.Sound) (z : Nat) : (s.confirm z).Sound := by
  unfold State.confirm
  split
  · exact h
  · exact ((((h.modZone z fun _ _ hx => ⟨hx.bounds.confirmed (h.profile_inRange z), .confirmed _⟩).raise z _).abandonProof
      z).recomputeLines).raiseTrigger _ _ _

/-- What an outcome calls for says where the zone stood: only a NORMAL zone is suspected, only a SUSPECT one returns. -/
theorem takeDecision (h : s.Sound) {x : Zone} (hx : s.zone? z = some x) {p : ZoneProfile} {mode : Mode} {evidence : Nat} :
    (s.takeDecision z (decideOutcome p mode x.run.state evidence)).Sound := by
  have hgrace (hs : x.run.state ≠ .degraded) (y : Zone) (hy : s.zone? z = some y) : y.run.graceDeadline = none := by
    cases hx.symm.trans hy
    exact (h.zones z x hx).fits.graceDeadline_of_ne hs
  have hsuspected (y : Zone) (hy : (s.enterSuspect z).zone? z = some y) : y.run.state = .suspect := by
    rw [State.zone?_enterSuspect, if_pos rfl, hx] at hy
    cases hy
    rfl
  cases hstate : x.run.state with
  | normal =>
    have hentered := h.enterSuspect (hgrace (by simp [hstate]))
    unfold decideOutcome
    dsimp only
    split
    · split
      · exact hentered.raiseWouldTrip hsuspected
      · exact h.confirm z
    · split
      · exact hentered
      · exact h
  | suspect =>
    unfold decideOutcome
    dsimp only
    split
    · split
      · exact h.raiseWouldTrip fun y hy => by cases hx.symm.trans hy; exact hstate
      · exact h.confirm z
    · split
      · exact h.modRun z fun y hy hfits => by cases hx.symm.trans hy; exact ⟨hfits.toNormal hstate, Nat.le_refl _⟩
      · exact h
  | tripped => exact h
  | lockout => exact h
  | absorbed => exact h
  | degraded => exact h

theorem evaluateZone (h : s.Sound) (z : Nat) : (s.evaluateZone z).Sound := by
  unfold State.evaluateZone
  split
  · exact h
  · rename_i x hx
    split
    · exact h
    · rename_i u _
      split
      · have heval : (s.modZone z fun y => { y with
            eval := x.eval.evaluate (s.profile z) x.run.state s.now (s.inputs x u) }).Sound := by
          refine h.modZone z fun y hy hsound => ?_
          cases hx.symm.trans hy
          exact ⟨hsound.bounds.evaluate (h.profile_inRange z) _ _ _, hsound.fits⟩
        have hz : (s.modZone z fun y => { y with
            eval := x.eval.evaluate (s.profile z) x.run.state s.now (s.inputs x u) }).zone? z
              = some { x with eval := x.eval.evaluate (s.profile z) x.run.state s.now (s.inputs x u) } := by
          rw [State.zone?_modZone_same, hx]; rfl
        exact heval.takeDecision hz
      · exact h

/-! ### The other acts -/

theorem blindTrip (h : s.Sound) {x : Zone} (hx : s.zone? z = some x) (hs : x.run.state = .degraded) :
    (s.blindTrip z).Sound :=
  ((h.modRun z fun y hy hfits => by cases hx.symm.trans hy; exact ⟨hfits.blinded hs, Nat.le_refl _⟩).raise
    z _).recomputeLines

theorem release (h : s.Sound) {x : Zone} (hx : s.zone? z = some x) (ht : x.isTripped = true) {trips : Nat}
    (hle : trips ≤ x.run.trips) (memory : Option Time) : (s.release z trips memory).Sound := by
  rw [State.release_eq_handOff hx]
  refine handOff (recomputeLines (raise (h.modZone z fun y hy hsound => ?_) z _)) _ _
  cases hx.symm.trans hy
  exact ⟨{ hsound.bounds.markReseed with
      evidence := Nat.zero_le _
      trips := Nat.le_trans hle hsound.bounds.trips },
    hsound.fits.released (of_decide_eq_true ht) _ _⟩

theorem setNode (h : s.Sound) {i : Nat} {n m : NodeRun} (hn : s.node? i = some n) (hm : m.Fits) : (s.setNode i m).Sound := by
  refine { h with nodes := fun j k hk => ?_ }
  rw [State.node?_setNode hn] at hk
  split at hk
  · cases hk; exact hm
  · exact h.nodes j k hk

theorem small (h : s.Sound) (hsmall : Small s t) : t.Sound := by
  cases hsmall with
  | stream => exact { h with }
  | counters => exact { h with }
  | forward => exact { h with }
  | sensorNext => exact { h with }
  | staged g hg => exact { h with stagedProfiles := hg.zones h.stagedProfiles }
  | feeders => exact { h with }
  | setNode i n m hn hstep => exact h.setNode hn ((hstep .default).fits (h.nodes i n hn))
  | record => rw [State.pushRecord_eq]; exact { h with }
  | trigger => exact h.raiseTrigger _ _ _
  | quiet z g hg =>
    refine h.modZone z fun x hx hsound => ?_
    have hq := hg x hx
    exact ⟨⟨hq.evidence ▸ hsound.bounds.evidence, hq.score ▸ hsound.bounds.score,
      fun ph => hq.perPhase ▸ hsound.bounds.phaseScores ph, Nat.le_trans hq.trips hsound.bounds.trips⟩, hq.fits hsound.fits⟩
  | raise => exact { h with }

end State.Sound

/-! ## ACTIVATE and the resets -/

theorem NodeRun.Fits.fresh : NodeRun.fresh.Fits := by constructor <;> simp [NodeRun.fresh]

theorem NodeRun.Fits.kept {n : NodeRun} (h : n.Fits) (old new : NodeRec) : (n.kept old new).Fits := by
  have hfinal (m : NodeRun) (hm : m.Fits) :
      (if m.state = .barred then m
        else { m with state := .expected, seqExpect := none, silenceDeadline := none, warmUp := 0 }).Fits := by
    split
    · exact hm
    · rename_i hs
      have := hm.barReason_of_ne hs
      constructor <;> simp_all
  have hclear : NodeRun.Fits { n with channels := n.channels.map Channel.clearVoltage } := { h with }
  unfold NodeRun.kept
  split
  · exact h
  · refine hfinal _ ?_
    split <;> assumption

theorem Zone.Sound.fresh (z : Nat) : (Zone.fresh z).Sound := ⟨.fresh z, .fresh⟩

/-- A list with a record for each index that has one, read at an index. -/
theorem getElem?_range_map_join {α : Type} (n : Nat) (g : Nat → Option α) (j : Nat) :
    (((List.range n).map g)[j]?).join = if j < n then g j else none := by
  by_cases h : j < n
  · simp [h]
  · rw [List.getElem?_eq_none (by simpa using h), if_neg h]; rfl

theorem Tables.node?_eq_none_of_le {t : Tables} {i : Nat} (h : t.nodes.length ≤ i) : t.node? i = none := by
  simp [Tables.node?, List.getElem?_eq_none h]

theorem Tables.position?_eq_none_of_le {t : Tables} {i : Nat} (h : t.nodes.length ≤ i) : t.position? i = none := by
  simp [Tables.position?, Tables.node?_eq_none_of_le h]

/-- The zones of the new copy after the swap: carried over, or fresh (R81, R103). -/
theorem State.zone?_swapTables (s : State) (j : Nat) :
    s.swapTables.zone? j = (s.staged.position? j).map (reconcileZone s.active s.staged s.feeders s.zones j) := by
  refine (getElem?_range_map_join _ _ j).trans ?_
  split
  · rfl
  · rename_i h
    rw [Tables.position?_eq_none_of_le (Nat.le_of_not_lt h)]; rfl

/-- The nodes of the new copy after the swap: kept, or new (R38, R39). -/
theorem State.node?_swapTables (s : State) (j : Nat) :
    s.swapTables.node? j = (s.staged.node? j).map (reconcileNode s.active s.staged s.nodes j) := by
  refine (getElem?_range_map_join _ _ j).trans ?_
  split
  · rfl
  · rename_i h
    rw [Tables.node?_eq_none_of_le (Nat.le_of_not_lt h)]; rfl

/-- What a kept zone carries comes from its zone in the old copy (R103). -/
theorem reconcileZone_cases (old new : Tables) (feeders : Four Feeder) (zones : List (Option Zone)) (j : Nat) (r : NodeRec) :
    reconcileZone old new feeders zones j r = .fresh j
    ∨ ∃ (i : Nat) (x : Zone), keptZone old new j = some i ∧ (zones[i]?).join = some x
      ∧ reconcileZone old new feeders zones j r
        = x.capTrips (new.zoneProfile (profileNumber (feeders.get r.feeder).effective r)).lockoutLimit := by
  unfold reconcileZone
  split
  · rename_i x hx
    obtain ⟨i, hi, hx⟩ := Option.bind_eq_some_iff.mp hx
    exact .inr ⟨i, x, hi, hx, rfl⟩
  · exact .inl rfl

namespace State.Sound

variable {s : State}

theorem swapTables (h : s.Sound) : s.swapTables.Sound where
  zones j x hx := by
    rw [State.zone?_swapTables] at hx
    obtain ⟨r, -, rfl⟩ := Option.map_eq_some_iff.mp hx
    rcases reconcileZone_cases s.active s.staged s.feeders s.zones j r with he | ⟨i, y, -, hy, he⟩ <;> rw [he]
    · exact .fresh j
    · have hsound := h.zones i y hy
      exact ⟨{ hsound.bounds with trips := Nat.le_trans (Nat.min_le_left _ _) hsound.bounds.trips }, { hsound.fits with }⟩
  nodes j n hn := by
    rcases node?_reconcileNodes (old := s.active) (new := s.staged) (runs := s.nodes) rfl hn with rfl | ⟨i, m, o, r, hm, rfl⟩
    · exact .fresh
    · exact (h.nodes i m hm).kept o r
  activeProfiles := h.stagedProfiles
  stagedProfiles := h.activeProfiles

theorem activate (h : s.Sound) : s.activate.Sound := by
  have hproof : (s.swapTables.reconcileProof s.active).Sound := by
    rw [State.reconcileProof_eq]; exact { h.swapTables with }
  unfold State.activate
  rw [State.startRunning_eq]
  exact { hproof.recomputeAll with }

theorem zone?_clearRuntime (s : State) (z : Nat) :
    s.clearRuntime.zone? z = (s.active.position? z).map fun _ => .fresh z := by
  refine (getElem?_range_map_join _ _ z).trans ?_
  split
  · rfl
  · rename_i h
    rw [Tables.position?_eq_none_of_le (Nat.le_of_not_lt h)]; rfl

theorem restart (h : s.Sound) : s.restart.Sound := by
  have hclear : s.clearRuntime.Sound :=
    { h with
      zones := fun z x hx => by
        rw [zone?_clearRuntime] at hx
        obtain ⟨_, -, rfl⟩ := Option.map_eq_some_iff.mp hx
        exact .fresh z
      nodes := fun i n hn => by rw [State.NodesBounded.node?_clearRuntime hn]; exact .fresh }
  exact { hclear.recomputeAll with }

theorem zone?_hardReset (strap : BitVec 2) (l : List Instr) (z : Nat) :
    State.zone? { State.reset with strap := strap, pending := l } z = none := by
  simp [State.zone?, State.reset, List.getElem?_replicate]
  split <;> rfl

theorem kept : Kept State.Sound where
  pending _ h := { h with }
  tick h := { h with }
  hardReset strap l :=
    { zones := fun z x hx => by rw [zone?_hardReset] at hx; cases hx
      nodes := fun i n hn => by rw [State.NodesBounded.node?_hardReset] at hn; cases hn
      activeProfiles := rfl
      stagedProfiles := rfl }
  small h hsmall := h.small hsmall
  changeNode {s i r n m} h _ hn hstep := by
    have hset := h.setNode hn (hstep.fits (h.nodes i n hn))
    unfold State.changeNode
    split
    · exact hset
    · exact hset.recompute _
  evaluateZone z h := h.evaluateZone z
  blindTrip h hx hs := h.blindTrip hx hs
  presence _ _ h := { h with }
  release memory h hx ht hle := h.release hx ht hle memory
  free _ h := { h with }
  proveZone _ _ _ h _ := { h with }
  proveLine _ _ _ h _ := { h with }
  completeZone _ _ h _ := { h with }
  completeLine _ h _ := { h with }
  activate h _ _ := h.activate
  restart h := h.restart
  flushHeld h := { h with }
  replies _ h := { h with }
  transmit h := by rw [State.chooseNext_eq]; exact { h with }
  queued h _ := { h with }

end State.Sound

/-- Settles O57: each event of the zone and node state machines leaves numbers in range and timers that fit. -/
theorem stepKeepsTheZonesBoundedAndTheTimersFitting : Obligations.StepKeepsTheZonesBoundedAndTheTimersFitting :=
  fun _ _ hb ht hstep => State.sound_iff.mp (State.Sound.kept.step (State.sound_iff.mpr ⟨hb, ht⟩) hstep)

end Sys2Proof.Machine

/-!
The queues (R106, R127, R129, R167, R179): their capacities, one verdict entry for a zone, and a completion that is held only
behind a full reply queue.
-/

namespace Sys2Proof.Machine

/-! ## Replies within an event -/

/-- No event writes a reply before the REPLY of its command. -/
theorem Effect.replies {s t : State} {c : Instr} (h : Effect s c t) : t.replies = s.replies := by
  cases h with
  | small h => exact h.proof.2
  | @changeNode _ u _ _ n m h _ _ _ =>
    rw [← h.proof.2]
    unfold State.changeNode
    split
    · rfl
    · exact (State.recompute_outside _ _).replies
  | blindTrip => rfl
  | presence h => exact h.proof.2
  | release => exact (State.release_outside _ _ _ _).replies
  | free => rfl
  | proveZone => rfl
  | proveLine => rfl
  | cancelZone => rfl
  | cancelPulse => rfl
  | activate =>
    unfold State.activate
    rw [State.startRunning_eq]
    refine (State.recomputeAll_outside _).replies.trans ?_
    rw [State.reconcileProof_eq]
    rfl

theorem State.evaluateFeeder_outside (s : State) (f : Fin 4) : s.OutsideZones (s.evaluateFeeder f) :=
  State.OutsideZones.foldl State.evaluateZone_outside _ _

/-! ## The reply queue and the held completion -/

/-- The reply queue is within its capacity, and a completion waits only where it is full (R167, R179). -/
structure State.RepliesFit (s : State) : Prop where
  replies : s.replies.length ≤ Config.replyCapacity
  waiting : s.proof.state = .completionWaiting → s.replies.length = Config.replyCapacity

namespace State.RepliesFit

variable {s t : State} {c : Instr}

/-- After the end of an event a completion waits only behind a full queue, whatever the event did. -/
theorem flushHeld (h : s.replies.length ≤ Config.replyCapacity) : s.flushHeld.RepliesFit := by
  by_cases hw : s.proof.state = .completionWaiting
  · by_cases room : s.replies.length < Config.replyCapacity
    · rw [State.flushHeld_of_room hw room]
      refine ⟨?_, nofun⟩
      have : s.proof.held.toList.length ≤ 1 := by cases s.proof.held <;> simp
      simp only [List.length_append]
      omega
    · rw [State.flushHeld_of_full (Nat.le_of_not_lt room)]
      exact ⟨h, fun _ => Nat.le_antisymm h (Nat.le_of_not_lt room)⟩
  · rw [State.flushHeld_of_not_waiting hw]
    exact ⟨h, fun hw' => absurd hw' hw⟩

theorem shadowEvaluation (h : s.replies.length ≤ Config.replyCapacity) (f : Fin 4) :
    (s.shadowEvaluation f).replies.length ≤ Config.replyCapacity := by
  unfold State.shadowEvaluation
  split
  · exact h
  · exact (flushHeld (s := s.completeProof _ _) h).replies

theorem feederExpiry (h : s.RepliesFit) (f : Fin 4) : (s.feederExpiry f).RepliesFit := by
  refine flushHeld ?_
  rw [(State.evaluateFeeder_outside _ f).replies, State.rearm_replies]
  exact shadowEvaluation ((s.latchMode_smalls f).proof.2 ▸ h.replies) f

theorem chooseNext (h : s.RepliesFit) : s.chooseNext.RepliesFit := by
  unfold State.chooseNext
  split
  · exact { h with }
  · rename_i r rest _ hreplies
    refine flushHeld (Nat.le_trans ?_ h.replies)
    change rest.length ≤ s.replies.length
    rw [hreplies]
    exact Nat.le_succ _
  · exact { h with }
  · exact { h with }

/-- Every command leaves the reply queue so; `hrouted` is what a routed frame's command does. -/
theorem did (hs : s.RepliesFit) (h : Did s c t)
    (hrouted : c = .controllerFrameRouting → ∀ rest code tag params,
      exec (commandOf code tag params) { s with awaitingRouting := rest } = .next t → t.RepliesFit) : t.RepliesFit := by
  cases h with
  | hardReset => exact ⟨by simp [State.reset, Config.replyCapacity], nofun⟩
  | event h hp => exact ⟨h.replies ▸ hs.replies, fun hw => by rw [h.replies]; rw [hp] at hw; exact hs.waiting hw⟩
  | flushed h => exact flushHeld (h.replies ▸ hs.replies)
  | @answered _ u _ _ _ _ room h =>
    refine flushHeld ?_
    change (u.replies ++ [_]).length ≤ _
    rw [h.replies, List.length_append]
    exact room
  | feederExpiry => exact hs.feederExpiry _
  | pulseExpiry => exact flushHeld (by exact hs.replies)
  | transmit => exact hs.chooseNext
  | restart =>
    have hempty : s.restart.replies = [] := (State.recomputeAll_outside _).replies
    refine flushHeld ?_
    change (s.restart.replies ++ _).length ≤ _
    rw [hempty]
    simp [Config.replyCapacity]
  | queued => exact { hs with }
  | routed _ h => exact hrouted rfl _ _ _ _ h

theorem exec (hs : s.RepliesFit) (h : Machine.exec c s = .next t) : t.RepliesFit :=
  hs.did (exec_did h) fun _ rest code tag params hr =>
    did (s := { s with awaitingRouting := rest }) { hs with } (exec_did hr)
      fun hc => absurd hc (commandOf_ne_routing code tag params)

theorem step (hs : s.RepliesFit) (h : Machine.step s = .next t) : t.RepliesFit := by
  unfold Machine.step at h
  split at h
  · cases h; exact { hs with }
  · rename_i c rest _
    exact exec (s := { s with pending := rest }) { hs with } h

end State.RepliesFit

/-! ## The other queues -/

/-- What every act keeps of the queues: the bounds of forward FIFO, sensor queue and verdict queue, and that a waiting
completion holds its reply. -/
structure State.QueuesFit (s : State) : Prop where
  forward : s.forwardFifo.length ≤ Config.forwardCapacity
  sensor : s.sensorQueue.length ≤ Config.sensorQueueCapacity
  oneEntry : (s.verdicts.map (·.zone)).Nodup
  entryZone : ∀ e ∈ s.verdicts, e.zone < Config.nodeCount
  held : s.proof.state = .completionWaiting → s.proof.held.isSome
  activeLength : s.active.nodes.length = Config.nodeCount
  stagedLength : s.staged.nodes.length = Config.nodeCount

theorem State.queuesBounded_iff {s : State} : s.QueuesBounded ↔ s.QueuesFit ∧ s.RepliesFit :=
  ⟨fun h => ⟨⟨h.forward, h.sensor, h.oneEntry, h.entryZone, fun hw => (h.held hw).2, h.activeLength, h.stagedLength⟩,
      h.replies, fun hw => (h.held hw).1⟩,
    fun ⟨h, hr⟩ => ⟨h.forward, h.sensor, hr.replies, h.oneEntry, h.entryZone, fun hw => ⟨hr.waiting hw, h.held hw⟩,
      h.activeLength, h.stagedLength⟩⟩

theorem Tables.lt_of_position? {t : Tables} {i : Nat} {r : NodeRec} (h : t.position? i = some r) : i < t.nodes.length :=
  lt_of_node?_eq (Tables.node?_of_position? h)

theorem raiseInto_zone_lt {e : VerdictEntry} {q : List VerdictEntry} {n : Nat} (he : e.zone < n)
    (hq : ∀ x ∈ q, x.zone < n) : ∀ x ∈ raiseInto e q, x.zone < n := by
  have hzones := raiseInto_zones e q
  intro x hx
  have hmem : x.zone ∈ (raiseInto e q).map (·.zone) := List.mem_map_of_mem hx
  rw [hzones] at hmem
  have hold (hm : x.zone ∈ q.map (·.zone)) : x.zone < n := by
    obtain ⟨y, hy, hyx⟩ := List.mem_map.mp hm
    exact hyx ▸ hq y hy
  split at hmem
  · exact hold hmem
  · rcases List.mem_append.mp hmem with hm | hm
    · exact hold hm
    · rw [List.mem_singleton.mp hm]; exact he

/-- The zone that a kept zone comes from is named by its index in the new copy (R158). -/
theorem keptTo_some {old new : Tables} {i j : Nat} (h : keptTo old new i = some j) :
    j < new.nodes.length ∧ keptZone old new j = some i :=
  ⟨List.mem_range.mp (List.mem_of_find?_eq_some h),
    of_decide_eq_true (List.find?_some (p := fun j => decide (keptZone old new j = some i)) h)⟩

/-- Kept zones do not fall together. -/
theorem keptTo_injective {old new : Tables} {i k j : Nat} (hi : keptTo old new i = some j)
    (hk : keptTo old new k = some j) : i = k :=
  Option.some.inj ((keptTo_some hi).2.symm.trans (keptTo_some hk).2)

theorem reconcileVerdicts_zones (old new : Tables) (q : List VerdictEntry) :
    (reconcileVerdicts old new q).map (·.zone) = (q.map (·.zone)).filterMap (keptTo old new) := by
  rw [reconcileVerdicts, List.map_filterMap, List.filterMap_map]
  congr 1
  funext e
  cases h : keptTo old new e.zone <;> simp [h]

theorem reconcileVerdicts_nodup {old new : Tables} {q : List VerdictEntry} (h : (q.map (·.zone)).Nodup) :
    ((reconcileVerdicts old new q).map (·.zone)).Nodup := by
  rw [reconcileVerdicts_zones]
  exact h.filterMap fun _ _ _ hi hk => keptTo_injective hi hk

namespace State.QueuesFit

variable {s t : State}

theorem raise (h : s.QueuesFit) (z : Nat) (kind : VerdictKind) : (s.raise z kind).QueuesFit := by
  cases hz : s.zoneAt z with
  | none => simpa only [State.raise, hz] using h
  | some rx =>
    obtain ⟨r, x⟩ := rx
    obtain ⟨q, hq, -⟩ := Option.bind_eq_some_iff.mp hz
    have he : (s.raise z kind).verdicts = raiseInto (verdictEntry s.now z r x kind) s.verdicts := by
      simp only [State.raise, hz]
    exact { h with
      oneEntry := he ▸ raiseInto_nodup h.oneEntry
      entryZone := he ▸ raiseInto_zone_lt (h.activeLength ▸ Tables.lt_of_position? hq) h.entryZone }

theorem completeProof (h : s.QueuesFit) (status : Status) (data : List Byte) : (s.completeProof status data).QueuesFit :=
  { h with held := fun _ => rfl }

theorem abandonProof (h : s.QueuesFit) (z : Nat) : (s.abandonProof z).QueuesFit := by
  unfold State.abandonProof
  split
  · exact h.completeProof _ _
  · exact h

theorem raiseTrigger (h : s.QueuesFit) (f : Fin 4) (kind : TriggerKind) (subject : Option Nat) :
    (s.raiseTrigger f kind subject).QueuesFit := by
  rw [State.raiseTrigger_frame]; exact { h with }

theorem zoneKept : ZoneKept State.QueuesFit where
  act h hact := by
    cases hact with
    | modZone => exact { h with }
    | raise => exact h.raise _ _
    | abandonProof => exact h.abandonProof _
    | recomputeLines => exact { h with }
    | raiseTrigger => exact h.raiseTrigger _ _ _
  replaceTopology _ h := { h with }

theorem small (h : s.QueuesFit) (hsmall : Small s t) : t.QueuesFit := by
  cases hsmall with
  | stream => exact { h with }
  | counters => exact { h with }
  | forward f room => exact { h with forward := by rw [List.length_append]; exact room }
  | sensorNext =>
    exact { h with
      sensor := by
        refine Nat.le_trans ?_ h.sensor
        simp [State.sensorNext] }
  | staged g hg => exact { h with stagedLength := hg.nodesLength h.stagedLength }
  | feeders => exact { h with }
  | setNode => exact { h with }
  | record => rw [State.pushRecord_eq]; exact { h with }
  | trigger => exact h.raiseTrigger _ _ _
  | quiet => exact { h with }
  | raise => exact h.raise _ _

theorem activate (h : s.QueuesFit) : s.activate.QueuesFit := by
  have hswap : s.swapTables.QueuesFit :=
    { h with
      oneEntry := reconcileVerdicts_nodup h.oneEntry
      entryZone := fun e he => by
        obtain ⟨q, -, hq⟩ := List.mem_filterMap.mp he
        obtain ⟨j, hj, rfl⟩ := Option.map_eq_some_iff.mp hq
        exact h.stagedLength ▸ (keptTo_some hj).1
      activeLength := h.stagedLength
      stagedLength := h.activeLength }
  have hproof : (s.swapTables.reconcileProof s.active).QueuesFit := by
    unfold State.reconcileProof
    split
    · rename_i hpending
      split
      · exact { hswap with held := fun hw => by cases hpending.symm.trans hw }
      · exact hswap.completeProof _ _
    · exact hswap
  unfold State.activate
  rw [State.startRunning_eq]
  exact { zoneKept.recomputeAll hproof with }

theorem restart (h : s.QueuesFit) : s.restart.QueuesFit := by
  have hclear : s.clearRuntime.QueuesFit :=
    { h with
      forward := Nat.zero_le _
      sensor := Nat.zero_le _
      oneEntry := List.nodup_nil
      entryZone := List.forall_mem_nil _
      held := nofun }
  exact { zoneKept.recomputeAll hclear with }

theorem flushHeld (h : s.QueuesFit) : s.flushHeld.QueuesFit := by
  rcases s.flushHeld_cases with he | ⟨-, -, he⟩ <;> rw [he]
  · exact h
  · exact { h with held := nofun }

theorem chooseNext (h : s.QueuesFit) : s.chooseNext.QueuesFit := by
  unfold State.chooseNext
  split
  · rename_i e rest hverdicts
    have hone := h.oneEntry
    have hzone := h.entryZone
    rw [hverdicts] at hone hzone
    exact { h with
      oneEntry := (List.nodup_cons.mp hone).2
      entryZone := fun x hx => hzone x (List.mem_cons_of_mem _ hx) }
  · exact State.QueuesFit.flushHeld { h with }
  · rename_i f rest hforward
    have hlength := h.forward
    rw [hforward] at hlength
    exact { h with forward := Nat.le_of_succ_le hlength }
  · exact { h with }

theorem kept : Kept State.QueuesFit where
  pending _ h := { h with }
  tick h := { h with }
  hardReset _ _ := ⟨Nat.zero_le _, Nat.zero_le _, List.nodup_nil, List.forall_mem_nil _, nofun,
    List.length_replicate, List.length_replicate⟩
  small h hsmall := h.small hsmall
  changeNode h _ _ _ := zoneKept.changeNode { h with }
  evaluateZone z h := zoneKept.acts h (State.evaluateZone_acts _ z)
  blindTrip h _ _ := zoneKept.acts h (State.blindTrip_acts _ _)
  presence _ _ h := { h with }
  release _ h _ _ _ := zoneKept.acts h (State.release_acts _ _ _ _)
  free _ h := { h with }
  proveZone _ _ _ h _ := { h with held := nofun }
  proveLine _ _ _ h _ := { h with held := nofun }
  completeZone _ _ h _ := h.completeProof _ _
  completeLine _ h _ := { h.completeProof _ _ with }
  activate h _ _ := h.activate
  restart h := h.restart
  flushHeld h := h.flushHeld
  replies _ h := { h with }
  transmit h := h.chooseNext
  queued h room := { h with sensor := by rw [List.length_append]; exact room }

end State.QueuesFit

/-- Settles O56: the acts keep the other queues, and the end of every event the reply queue. -/
theorem stepKeepsTheQueuesBounded : Obligations.StepKeepsTheQueuesBounded := by
  intro s t h hstep
  obtain ⟨hqueues, hreplies⟩ := State.queuesBounded_iff.mp h
  exact State.queuesBounded_iff.mpr ⟨State.QueuesFit.kept.step hqueues hstep, hreplies.step hstep⟩

end Sys2Proof.Machine

/-!
The validation of ACTIVATE (R157): each check finds the failing record of the lowest index, the first failure is the first
check's, and what a copy that passes looks like (R3).
-/

namespace Sys2Proof.Machine

/-! ## What each check finds -/

/-- A check finds the lowest index that fails, and none only where none fails. -/
structure Finds (fails : Nat → Prop) (found : Option Nat) : Prop where
  some : ∀ i, found = some i → fails i ∧ ∀ k, fails k → i ≤ k
  none : found = none ↔ ∀ i, ¬fails i

theorem Finds.eq_some {fails : Nat → Prop} {found : Option Nat} {i : Nat} (h : Finds fails found) (hi : fails i)
    (hle : ∀ k, fails k → i ≤ k) : found = Option.some i := by
  cases hf : found with
  | none => exact absurd hi (h.none.mp hf i)
  | some k =>
    obtain ⟨hk, hmin⟩ := h.some k hf
    rw [Nat.le_antisymm (hmin i hi) (hle k hk)]

section
variable {t : Tables}

/-- A check over the records finds what it looks for. -/
theorem finds_firstNode {bad : Nat → NodeRec → Bool} {fails : Nat → Prop}
    (h : ∀ i, fails i ↔ ∃ r, t.node? i = some r ∧ bad i r = true) : Finds fails (t.firstNode bad) where
  some i hi := by
    obtain ⟨hbad, hle⟩ := Tables.firstNode_some.mp hi
    refine ⟨(h i).mpr hbad, fun k hk => ?_⟩
    obtain ⟨r, hr, hbad⟩ := (h k).mp hk
    exact hle k r hr hbad
  none := by
    rw [Tables.firstNode_none]
    constructor
    · intro hnone i hi
      obtain ⟨r, hr, hbad⟩ := (h i).mp hi
      rw [hnone i r hr] at hbad
      cases hbad
    · intro hnone i r hr
      exact Bool.eq_false_iff.mpr fun hbad => hnone i ((h i).mpr ⟨r, hr, hbad⟩)

theorem fails_address {i : Nat} : Fails t 1 i ↔ ∃ r, t.node? i = some r ∧ t.badAddress i r = true := by
  simp only [Tables.badAddress, List.any_eq_true, List.mem_range, Option.any_eq_true, decide_eq_true_eq]
  constructor
  · intro h
    cases h with
    | dupAddress hr hq hlt haddress => exact ⟨_, hr, _, hlt, _, hq, haddress⟩
  · rintro ⟨r, hr, j, hlt, q, hq, haddress⟩
    exact .dupAddress hr hq hlt haddress

theorem fails_noHead {i : Nat} : Fails t 2 i ↔ i = 0xFF ∧ ∀ j r, t.node? j = some r → r.role ≠ .head := by
  constructor
  · intro h
    cases h with
    | noHead h => exact ⟨rfl, h⟩
  · rintro ⟨rfl, h⟩
    exact .noHead h

theorem finds_noHead : Finds (Fails t 2) t.noHead := by
  have hany : (t.indices.any fun i => (t.node? i).any fun r => decide (r.role = .head)) = true
      ↔ ∃ j r, t.node? j = some r ∧ r.role = .head := by
    simp only [Tables.indices, List.any_eq_true, List.mem_range, Option.any_eq_true, decide_eq_true_eq]
    exact ⟨fun ⟨j, _, r, hr, hh⟩ => ⟨j, r, hr, hh⟩, fun ⟨j, r, hr, hh⟩ => ⟨j, lt_of_node?_eq hr, r, hr, hh⟩⟩
  unfold Tables.noHead
  constructor
  · intro i hi
    split at hi
    · cases hi
    · rename_i hno
      cases hi
      refine ⟨fails_noHead.mpr ⟨rfl, fun j r hr hh => hno (hany.mpr ⟨j, r, hr, hh⟩)⟩, fun k hk => ?_⟩
      rw [(fails_noHead.mp hk).1]
  · split
    · rename_i hyes
      obtain ⟨j, r, hr, hh⟩ := hany.mp hyes
      exact ⟨fun _ i hi => (fails_noHead.mp hi).2 j r hr hh, fun _ => rfl⟩
    · rename_i hno
      exact ⟨nofun, fun h => absurd (fails_noHead.mpr ⟨rfl, fun j r hr hh => hno (hany.mpr ⟨j, r, hr, hh⟩)⟩) (h 0xFF)⟩

theorem fails_head {i : Nat} : Fails t 3 i ↔ ∃ r, t.node? i = some r ∧ t.badHead i r = true := by
  simp only [Tables.badHead, Bool.and_eq_true, List.any_eq_true, List.mem_range, Option.any_eq_true, decide_eq_true_eq]
  constructor
  · intro h
    cases h with
    | twoHeads hr hq hlt hhead hqhead hfeeder => exact ⟨_, hr, hhead, _, hlt, _, hq, hqhead, hfeeder⟩
  · rintro ⟨r, hr, hhead, j, hlt, q, hq, hqhead, hfeeder⟩
    exact .twoHeads hr hq hlt hhead hqhead hfeeder

theorem Tables.position?_eq_some {p : Nat} {q : NodeRec} : t.position? p = some q ↔ t.node? p = some q ∧ q.role ≠ .twin := by
  simp [Tables.position?, Option.filter_eq_some_iff, NodeRec.isPosition]

theorem fails_parent {i : Nat} : Fails t 4 i ↔ ∃ r, t.node? i = some r ∧ t.badParent i r = true := by
  simp only [Tables.badParent, Bool.and_eq_true, decide_eq_true_eq, Option.isNone_iff_eq_none, Option.bind_eq_none_iff]
  constructor
  · intro h
    cases h with
    | badParent hr hrole h =>
      refine ⟨_, hr, hrole, fun p hp => Option.eq_none_iff_forall_ne_some.mpr fun q hq => ?_⟩
      obtain ⟨hq, htwin⟩ := Tables.position?_eq_some.mp hq
      exact htwin (h p q hp hq)
  · rintro ⟨r, hr, hrole, h⟩
    refine .badParent hr hrole fun p q hp hq => ?_
    by_contra htwin
    exact absurd (Tables.position?_eq_some.mpr ⟨hq, htwin⟩) (by rw [h p hp]; nofun)

theorem fails_feeder {i : Nat} : Fails t 5 i ↔ ∃ r, t.node? i = some r ∧ t.badFeeder i r = true := by
  simp only [Tables.badFeeder, Tables.onOtherFeeder, NodeRec.isPosition, Bool.or_eq_true, Bool.and_eq_true,
    decide_eq_true_eq, Option.any_eq_true, Option.bind_eq_some_iff]
  constructor
  · intro h
    cases h with
    | parentElsewhere hr hrole hp hq hfeeder => exact ⟨_, hr, .inl ⟨hrole, _, ⟨_, hp, hq⟩, hfeeder⟩⟩
    | twinElsewhere hr hrole hp hq hfeeder => exact ⟨_, hr, .inr ⟨hrole, _, ⟨_, hp, hq⟩, hfeeder⟩⟩
  · rintro ⟨r, hr, ⟨hrole, q, ⟨p, hp, hq⟩, hfeeder⟩ | ⟨hrole, q, ⟨p, hp, hq⟩, hfeeder⟩⟩
    · exact .parentElsewhere hr hrole hp hq hfeeder
    · exact .twinElsewhere hr hrole hp hq hfeeder

theorem fails_cycle {i : Nat} : Fails t 6 i ↔ ∃ r, t.node? i = some r ∧ t.badCycle i r = true := by
  simp only [Tables.badCycle, Bool.and_eq_true, decide_eq_true_eq, Option.isNone_iff_eq_none]
  constructor
  · intro h
    cases h with
    | cycle hr hrole h =>
      exact ⟨_, hr, hrole, Option.eq_none_iff_forall_ne_some.mpr fun d hd => h d (Tables.depth_iff.mp hd)⟩
  · rintro ⟨r, hr, hrole, h⟩
    exact .cycle hr hrole fun d hd => by cases h.symm.trans (Tables.depth_iff.mpr hd)

theorem fails_depth {i : Nat} : Fails t 7 i ↔ ∃ r, t.node? i = some r ∧ t.badDepth i r = true := by
  simp only [Tables.badDepth, Bool.and_eq_true, decide_eq_true_eq, Option.any_eq_true]
  constructor
  · intro h
    cases h with
    | tooDeep hr hrole hd hdeep => exact ⟨_, hr, hrole, _, Tables.depth_iff.mpr hd, hdeep⟩
  · rintro ⟨r, hr, hrole, d, hd, hdeep⟩
    exact .tooDeep hr hrole (Tables.depth_iff.mp hd) hdeep

theorem Tables.children_nodup (t : Tables) (p : Nat) : (t.children p).Nodup := List.nodup_range.filter _

theorem fails_children {i : Nat} : Fails t 8 i ↔ ∃ r, t.node? i = some r ∧ t.badChildren i r = true := by
  simp only [Tables.badChildren, NodeRec.isPosition, Bool.and_eq_true, decide_eq_true_eq]
  constructor
  · intro h
    cases h with
    | tooManyChildren hr hrole hdistinct hnamed hmany =>
      refine ⟨_, hr, hrole, Nat.lt_of_lt_of_le hmany ?_⟩
      exact (hdistinct.subperm fun c hc => Tables.mem_children.mpr (hnamed c hc)).length_le
  · rintro ⟨r, hr, hrole, hmany⟩
    exact .tooManyChildren hr hrole (t.children_nodup i) (fun c hc => Tables.mem_children.mp hc) hmany

theorem fails_twin {i : Nat} : Fails t 9 i ↔ ∃ r, t.node? i = some r ∧ t.badTwin i r = true := by
  simp only [Tables.badTwin, NodeRec.isPosition, Bool.and_eq_true, decide_eq_true_eq, Option.any_eq_true,
    Bool.not_eq_true', Option.any_eq_false]
  constructor
  · intro h
    cases h with
    | badTwin hr hrole hp h => exact ⟨_, hr, hrole, _, hp, fun q hq => by simpa using h q hq⟩
  · rintro ⟨r, hr, hrole, p, hp, h⟩
    exact .badTwin hr hrole hp fun q hq => by simpa using h q hq

theorem Tables.twinOf_eq_some {p i : Nat} :
    t.twinOf p = some i ↔ ∃ r, t.node? p = some r ∧ r.role ≠ .twin ∧ r.twin = some i := by
  simp only [Tables.twinOf, Option.bind_eq_some_iff, Tables.position?_eq_some, and_assoc]

/-- The positions that name an index as their twin. -/
def Tables.twinNames (t : Tables) (i : Nat) : List Nat := t.indices.filter fun p => t.twinOf p = some i

theorem Tables.mem_twinNames {i p : Nat} : p ∈ t.twinNames i ↔ t.twinOf p = some i := by
  simp only [Tables.twinNames, Tables.indices, List.mem_filter, List.mem_range, decide_eq_true_eq]
  refine ⟨fun h => h.2, fun h => ⟨?_, h⟩⟩
  obtain ⟨r, hr, -⟩ := Tables.twinOf_eq_some.mp h
  exact lt_of_node?_eq hr

theorem Tables.twinNames_nodup (i : Nat) : (t.twinNames i).Nodup := List.nodup_range.filter _

/-- A list of distinct numbers that has not one element is empty or has two that differ. -/
theorem exists_two_of_length_ne_one {xs : List Nat} (h : xs.Nodup) (hlen : xs.length ≠ 1) :
    xs = [] ∨ ∃ j k, j ≠ k ∧ j ∈ xs ∧ k ∈ xs := by
  match xs with
  | [] => exact .inl rfl
  | [x] => exact absurd rfl hlen
  | x :: y :: rest =>
    exact .inr ⟨x, y, fun hxy => by simp [hxy] at h, by simp, by simp⟩

theorem fails_twinUse {i : Nat} : Fails t 10 i ↔ ∃ r, t.node? i = some r ∧ t.badTwinUse i r = true := by
  simp only [Tables.badTwinUse, Bool.and_eq_true, decide_eq_true_eq]
  have huses : t.twinUses i = (t.twinNames i).length := rfl
  rw [huses]
  constructor
  · intro h
    cases h with
    | @sharedTwin _ j k r p q hr hrole hjk hj hnotp htwinp hk hnotq htwinq =>
      refine ⟨r, hr, hrole, fun hone => ?_⟩
      obtain ⟨x, hx⟩ := List.length_eq_one_iff.mp hone
      have hmem (y : Nat) (hy : t.twinOf y = some i) : y = x := by
        have := Tables.mem_twinNames.mpr hy
        rw [hx] at this
        exact List.mem_singleton.mp this
      exact hjk ((hmem j (Tables.twinOf_eq_some.mpr ⟨p, hj, hnotp, htwinp⟩)).trans
        (hmem k (Tables.twinOf_eq_some.mpr ⟨q, hk, hnotq, htwinq⟩)).symm)
    | unnamedTwin hr hrole h =>
      refine ⟨_, hr, hrole, fun hone => ?_⟩
      obtain ⟨x, hx⟩ := List.length_eq_one_iff.mp hone
      have hmem : x ∈ t.twinNames i := by simp [hx]
      obtain ⟨p, hp, hnot, htwin⟩ := Tables.twinOf_eq_some.mp (Tables.mem_twinNames.mp hmem)
      exact h x p hp hnot htwin
  · rintro ⟨r, hr, hrole, hone⟩
    rcases exists_two_of_length_ne_one (Tables.twinNames_nodup i) hone with hnil | ⟨j, k, hjk, hj, hk⟩
    · refine .unnamedTwin hr hrole fun j p hp hnot htwin => ?_
      have hmem := Tables.mem_twinNames.mpr (Tables.twinOf_eq_some.mpr ⟨p, hp, hnot, htwin⟩)
      rw [hnil] at hmem
      cases hmem
    · obtain ⟨p, hp, hnotp, htwinp⟩ := Tables.twinOf_eq_some.mp (Tables.mem_twinNames.mp hj)
      obtain ⟨q, hq, hnotq, htwinq⟩ := Tables.twinOf_eq_some.mp (Tables.mem_twinNames.mp hk)
      exact .sharedTwin hr hrole hjk hp hnotp htwinp hq hnotq htwinq

/-! ### The orders of the profiles -/

theorem ZoneProfile.ordered_eq_false {p : ZoneProfile} : p.ordered = false ↔ p.tConfirm < p.tSuspect := by
  simp [ZoneProfile.ordered]

theorem ChannelProfile.ordered_eq_false {p : ChannelProfile} : p.ordered = false ↔ p.ks ≤ p.kf ∨ p.sOn ≤ p.sOff := by
  simp [ChannelProfile.ordered]
  omega

theorem fails_order {i : Nat} : Fails t 11 i ↔
    (∃ n p, t.zoneProfiles[n]? = some p ∧ p.ordered = false ∧ i = 48 + n)
    ∨ ∃ n p, t.channelProfiles[n]? = some p ∧ p.ordered = false ∧ i = 64 + n := by
  constructor
  · intro h
    cases h with
    | zoneProfileOrder hp hlt => exact .inl ⟨_, _, hp, ZoneProfile.ordered_eq_false.mpr hlt, rfl⟩
    | channelProfileOrder hp hle => exact .inr ⟨_, _, hp, ChannelProfile.ordered_eq_false.mpr hle, rfl⟩
  · rintro (⟨n, p, hp, hord, rfl⟩ | ⟨n, p, hp, hord, rfl⟩)
    · exact .zoneProfileOrder hp (ZoneProfile.ordered_eq_false.mp hord)
    · exact .channelProfileOrder hp (ChannelProfile.ordered_eq_false.mp hord)

/-- The first element of a list that fails a test, by its place. -/
theorem findIdx?_not_some {α : Type} {test : α → Bool} {xs : List α} {n : Nat}
    (h : xs.findIdx? (fun x => !test x) = some n) :
    (∃ x, xs[n]? = some x ∧ test x = false) ∧ ∀ k x, xs[k]? = some x → test x = false → n ≤ k := by
  obtain ⟨hlt, hbad, hfirst⟩ := List.findIdx?_eq_some_iff_getElem.mp h
  refine ⟨⟨xs[n], List.getElem?_eq_getElem hlt, by simpa using hbad⟩, fun k x hk hx => ?_⟩
  by_contra hn
  obtain ⟨hklt, rfl⟩ := List.getElem?_eq_some_iff.mp hk
  have := hfirst k (Nat.lt_of_not_le hn)
  rw [hx] at this
  exact this rfl

theorem findIdx?_not_none {α : Type} {test : α → Bool} {xs : List α} (h : xs.findIdx? (fun x => !test x) = none) {k : Nat}
    {x : α} (hk : xs[k]? = some x) : test x = true := by
  simpa using List.findIdx?_eq_none_iff.mp h x (List.mem_of_getElem? hk)

theorem profileOrder_none : t.profileOrder = none ↔ ∀ i, ¬Fails t 11 i := by
  unfold Tables.profileOrder
  constructor
  · intro h i hi
    split at h
    · cases h
    · rename_i hz
      rcases fails_order.mp hi with ⟨n, p, hp, hord, -⟩ | ⟨n, p, hp, hord, -⟩
      · rw [findIdx?_not_none hz hp] at hord; cases hord
      · rw [findIdx?_not_none (Option.map_eq_none_iff.mp h) hp] at hord; cases hord
  · intro h
    split
    · rename_i n hz
      obtain ⟨⟨p, hp, hord⟩, -⟩ := findIdx?_not_some hz
      exact absurd (fails_order.mpr (.inl ⟨n, p, hp, hord, rfl⟩)) (h _)
    · cases hc : t.channelProfiles.findIdx? (fun p => !p.ordered) with
      | none => rfl
      | some n =>
        obtain ⟨⟨p, hp, hord⟩, -⟩ := findIdx?_not_some hc
        exact absurd (fails_order.mpr (.inr ⟨n, p, hp, hord, rfl⟩)) (h _)

/-- With 16 zone profiles, every zone profile is reported before every channel profile. -/
theorem finds_order (hlen : t.zoneProfiles.length = Config.zoneProfileCount) : Finds (Fails t 11) t.profileOrder where
  some i hi := by
    unfold Tables.profileOrder at hi
    split at hi
    · rename_i n hz
      cases hi
      obtain ⟨⟨p, hp, hord⟩, hfirst⟩ := findIdx?_not_some hz
      have hn : n < Config.zoneProfileCount := hlen ▸ (List.getElem?_eq_some_iff.mp hp).1
      have hcount : Config.zoneProfileCount = 16 := rfl
      refine ⟨fails_order.mpr (.inl ⟨n, p, hp, hord, rfl⟩), fun k hk => ?_⟩
      rcases fails_order.mp hk with ⟨m, q, hq, hqord, rfl⟩ | ⟨m, q, -, -, rfl⟩
      · have := hfirst m q hq hqord
        omega
      · omega
    · rename_i hz
      obtain ⟨n, hn, rfl⟩ := Option.map_eq_some_iff.mp hi
      obtain ⟨⟨p, hp, hord⟩, hfirst⟩ := findIdx?_not_some hn
      refine ⟨fails_order.mpr (.inr ⟨n, p, hp, hord, rfl⟩), fun k hk => ?_⟩
      rcases fails_order.mp hk with ⟨m, q, hq, hqord, -⟩ | ⟨m, q, hq, hqord, rfl⟩
      · rw [findIdx?_not_none hz hq] at hqord; cases hqord
      · have := hfirst m q hq hqord
        omega
  none := profileOrder_none

/-! ## The first failure -/

/-- Checks 1 to 10 find what they look for in every copy. -/
theorem finds_records {found : Option Nat} {code : Byte} (h : (found, code) ∈ t.checks) (h11 : code ≠ 11) :
    Finds (Fails t code.toNat) found := by
  simp only [Tables.checks, List.mem_cons, Prod.mk.injEq, List.not_mem_nil, or_false] at h
  rcases h with ⟨rfl, rfl⟩ | ⟨rfl, rfl⟩ | ⟨rfl, rfl⟩ | ⟨rfl, rfl⟩ | ⟨rfl, rfl⟩ | ⟨rfl, rfl⟩ | ⟨rfl, rfl⟩ | ⟨rfl, rfl⟩
    | ⟨rfl, rfl⟩ | ⟨rfl, rfl⟩ | ⟨rfl, rfl⟩
  · exact finds_firstNode fun _ => fails_address
  · exact finds_noHead
  · exact finds_firstNode fun _ => fails_head
  · exact finds_firstNode fun _ => fails_parent
  · exact finds_firstNode fun _ => fails_feeder
  · exact finds_firstNode fun _ => fails_cycle
  · exact finds_firstNode fun _ => fails_depth
  · exact finds_firstNode fun _ => fails_children
  · exact finds_firstNode fun _ => fails_twin
  · exact finds_firstNode fun _ => fails_twinUse
  · exact absurd rfl h11

theorem checks_code_eleven {found : Option Nat} (h : (found, (11 : Byte)) ∈ t.checks) : found = t.profileOrder := by
  simpa [Tables.checks] using h

theorem finds_of_mem (hlen : t.zoneProfiles.length = Config.zoneProfileCount) {found : Option Nat} {code : Byte}
    (h : (found, code) ∈ t.checks) : Finds (Fails t code.toNat) found := by
  by_cases h11 : code = 11
  · subst h11
    rw [checks_code_eleven h]
    exact finds_order hlen
  · exact finds_records h h11

theorem none_iff_of_mem {found : Option Nat} {code : Byte} (h : (found, code) ∈ t.checks) :
    found = none ↔ ∀ i, ¬Fails t code.toNat i := by
  by_cases h11 : code = 11
  · subst h11
    rw [checks_code_eleven h]
    exact profileOrder_none
  · exact (finds_records h h11).none

/-- Each failure is a failure of one of the checks. -/
theorem Fails.exists_check {c i : Nat} (h : Fails t c i) : ∃ found code, (found, code) ∈ t.checks ∧ code.toNat = c := by
  have hcode : c ∈ t.checks.map fun p => p.2.toNat := by
    simp only [Tables.checks, List.map_cons, List.map_nil]
    cases h <;> decide
  obtain ⟨⟨found, code⟩, hmem, rfl⟩ := List.mem_map.mp hcode
  exact ⟨found, code, hmem, rfl⟩

theorem checks_ascending : t.checks.Pairwise fun p q => p.2.toNat < q.2.toNat := by
  simp [Tables.checks]

/-- The validation passes exactly the copies in which no check fails (R157). -/
theorem Tables.failure_eq_none : t.failure = none ↔ ∀ c i, ¬Fails t c i := by
  unfold Tables.failure
  rw [List.findSome?_eq_none_iff]
  constructor
  · intro h c i hi
    obtain ⟨found, code, hmem, rfl⟩ := hi.exists_check
    exact (none_iff_of_mem hmem).mp (Option.map_eq_none_iff.mp (h _ hmem)) i hi
  · rintro h ⟨found, code⟩ hmem
    exact Option.map_eq_none_iff.mpr ((none_iff_of_mem hmem).mpr fun i => h _ i)

/-- The failure reported is the first: the checks in their order, the index lowest within its check (R157). -/
theorem Tables.failure_eq_some (hlen : t.zoneProfiles.length = Config.zoneProfileCount) {i : Nat} {reason : Byte} :
    t.failure = some (i, reason) ↔ FirstFailure t reason.toNat i := by
  unfold Tables.failure
  rw [List.findSome?_eq_some_iff]
  constructor
  · rintro ⟨before, ⟨found, code⟩, rest, hchecks, hfound, hbefore⟩
    obtain ⟨k, rfl, hk⟩ := Option.map_eq_some_iff.mp hfound
    obtain ⟨rfl, rfl⟩ := Prod.mk.inj hk
    have hmem : (some k, code) ∈ t.checks := by simp [hchecks]
    obtain ⟨hi, hle⟩ := (finds_of_mem hlen hmem).some k rfl
    refine ⟨hi, hle, fun c k hc hk => ?_⟩
    obtain ⟨found', code', hmem', rfl⟩ := hk.exists_check
    have hascending := hchecks ▸ (checks_ascending (t := t))
    obtain ⟨-, hrest, -⟩ := List.pairwise_append.mp hascending
    dsimp only at hc
    have hin : (found', code') ∈ before := by
      rw [hchecks] at hmem'
      rcases List.mem_append.mp hmem' with h | h
      · exact h
      · rcases List.mem_cons.mp h with h | h
        · cases h; omega
        · have := (List.pairwise_cons.mp hrest).1 _ h
          dsimp only at this
          omega
    have hnone := Option.map_eq_none_iff.mp (hbefore _ hin)
    exact (none_iff_of_mem (by rw [hchecks]; exact List.mem_append_left _ hin)).mp hnone k hk
  · rintro ⟨hi, hle, hfirst⟩
    obtain ⟨found, code, hmem, hcode⟩ := hi.exists_check
    obtain rfl : code = reason := BitVec.eq_of_toNat_eq hcode
    obtain ⟨before, rest, hchecks⟩ := List.append_of_mem hmem
    refine ⟨before, (found, code), rest, hchecks, ?_, ?_⟩
    · rw [(finds_of_mem hlen hmem).eq_some hi hle]; rfl
    · rintro ⟨found', code'⟩ hin
      have hascending := hchecks ▸ (checks_ascending (t := t))
      have hlt := (List.pairwise_append.mp hascending).2.2 _ hin _ List.mem_cons_self
      have hmem' : (found', code') ∈ t.checks := by rw [hchecks]; exact List.mem_append_left _ hin
      exact Option.map_eq_none_iff.mpr ((none_iff_of_mem hmem').mpr fun k hk => hfirst _ k hlt hk)

/-! ## What a copy that passes looks like (R3) -/

/-- A copy that the validation passes has no failure. -/
theorem Tables.not_fails (h : t.failure = none) {c i : Nat} : ¬Fails t c i := Tables.failure_eq_none.mp h c i

theorem Tables.address_unique (h : t.failure = none) {i j : Nat} {r q : NodeRec} (hr : t.node? i = some r)
    (hq : t.node? j = some q) (haddress : r.address = q.address) : i = j := by
  rcases Nat.lt_trichotomy i j with hlt | heq | hlt
  · exact absurd (.dupAddress hq hr hlt haddress) (Tables.not_fails h)
  · exact heq
  · exact absurd (.dupAddress hr hq hlt haddress.symm) (Tables.not_fails h)

theorem Tables.head_unique (h : t.failure = none) {i j : Nat} {r q : NodeRec} (hr : t.node? i = some r)
    (hq : t.node? j = some q) (hhead : r.role = .head) (hqhead : q.role = .head) (hfeeder : r.feeder = q.feeder) : i = j := by
  rcases Nat.lt_trichotomy i j with hlt | heq | hlt
  · exact absurd (.twoHeads hq hr hlt hqhead hhead hfeeder) (Tables.not_fails h)
  · exact heq
  · exact absurd (.twoHeads hr hq hlt hhead hqhead hfeeder.symm) (Tables.not_fails h)

/-- The parent of a NODE is a HEAD or NODE of its own feeder. -/
theorem Tables.parent_of_valid (h : t.failure = none) {i : Nat} {r : NodeRec} (hr : t.node? i = some r)
    (hrole : r.role = .node) : ∃ p q, r.parent = some p ∧ t.position? p = some q ∧ q.feeder = r.feeder := by
  by_contra hno
  refine Tables.not_fails h (.badParent hr hrole fun p q hp hq => ?_)
  by_contra htwin
  refine hno ⟨p, q, hp, Tables.position?_eq_some.mpr ⟨hq, htwin⟩, ?_⟩
  by_contra hfeeder
  exact Tables.not_fails h (.parentElsewhere hr hrole hp hq hfeeder)

/-- The twin of a HEAD or NODE is a TWIN of its own feeder. -/
theorem Tables.twin_of_valid (h : t.failure = none) {i q : Nat} {r : NodeRec} (hr : t.position? i = some r)
    (hq : r.twin = some q) : ∃ x, t.node? q = some x ∧ x.role = .twin ∧ x.feeder = r.feeder := by
  obtain ⟨hr, hrole⟩ := Tables.position?_eq_some.mp hr
  by_contra hno
  refine Tables.not_fails h (.badTwin hr hrole hq fun x hx htwin => hno ⟨x, hx, htwin, ?_⟩)
  by_contra hfeeder
  exact Tables.not_fails h (.twinElsewhere hr hrole hq hx hfeeder)

theorem HasDepth.pos {i d : Nat} (h : HasDepth t i d) : 1 ≤ d := by
  cases h <;> omega

/-- A TWIN is the twin of exactly one position. -/
theorem Tables.twinOf_unique (h : t.failure = none) {i : Nat} {r : NodeRec} (hr : t.node? i = some r)
    (hrole : r.role = .twin) : ∃ p, t.twinOf p = some i ∧ ∀ q, t.twinOf q = some i → q = p := by
  by_contra hno
  refine Tables.not_fails h (.unnamedTwin hr hrole fun p x hx hnot htwin => hno ?_)
  refine ⟨p, Tables.twinOf_eq_some.mpr ⟨x, hx, hnot, htwin⟩, fun q hq => ?_⟩
  obtain ⟨y, hy, hnoty, htwiny⟩ := Tables.twinOf_eq_some.mp hq
  by_contra hqp
  exact Tables.not_fails h (.sharedTwin hr hrole hqp hy hnoty htwiny hx hnot htwin)

theorem Tables.exists_head (h : t.failure = none) : ∃ i r, t.node? i = some r ∧ r.role = .head := by
  by_contra hno
  exact Tables.not_fails h (.noHead fun i r hr hhead => hno ⟨i, r, hr, hhead⟩)

end

/-- Settles O12: each check finds the failure of the lowest index, and a copy without failures is a forest of feeder trees. -/
theorem validationReportsTheFirstFailureOrPassesATree : Obligations.ValidationReportsTheFirstFailureOrPassesATree := by
  refine ⟨fun t hin => ?_, fun t h => ⟨?_, t.exists_head h, ?_, ?_, ?_, ?_, ?_, ?_, ?_⟩⟩
  · have hlen : t.zoneProfiles.length = Config.zoneProfileCount := by
      simp only [Tables.inRange, Bool.and_eq_true, decide_eq_true_eq] at hin
      exact hin.1.1.1.2
    exact ⟨fun i reason => Tables.failure_eq_some hlen, Tables.failure_eq_none⟩
  · exact fun i j r q hr hq haddress => Tables.address_unique h hr hq haddress
  · exact fun i j r q hr hq hhead hqhead hfeeder => Tables.head_unique h hr hq hhead hqhead hfeeder
  · intro i r hr hrole
    obtain ⟨p, q, hp, hq, hfeeder⟩ := Tables.parent_of_valid h hr hrole
    obtain ⟨d, hd, hdepth⟩ := Tables.hasDepth_of_valid h hr (by rw [hrole]; nofun)
    obtain ⟨_, e, -, he, rfl⟩ := hdepth.parent hr hrole
    exact ⟨p, q, e + 1, hp, hq, hfeeder, Tables.depth_iff.mpr hdepth, Nat.succ_le_succ he.pos, hd⟩
  · intro i r hr
    obtain ⟨hr, hrole⟩ := Tables.position?_eq_some.mp hr
    exact Nat.le_of_not_lt fun hmany => Tables.not_fails h
      (.tooManyChildren hr hrole (t.children_nodup i) (fun c hc => Tables.mem_children.mp hc) hmany)
  · exact fun i r q hr hq => Tables.twin_of_valid h hr hq
  · exact fun i r hr hrole => Tables.twinOf_unique h hr hrole
  · intro p hp
    obtain ⟨n, hn⟩ := List.mem_iff_getElem?.mp hp
    exact Nat.le_of_not_lt fun hlt => Tables.not_fails h (.zoneProfileOrder hn hlt)
  · intro p hp
    obtain ⟨n, hn⟩ := List.mem_iff_getElem?.mp hp
    by_contra hno
    exact Tables.not_fails h (.channelProfileOrder hn (by omega))

end Sys2Proof.Machine

/-!
Tables, records and topology (R3, R8, R12, R16, R152, R157, R162): a zone's topology record reads the nodes of its own feeder
alone, so the recomputation of one feeder leaves every record current.
-/

namespace Sys2Proof.Machine

/-! ## Which nodes a topology record reads -/

/-- Two readings of the nodes agree on the nodes of a feeder. -/
def AgreeOn (t : Tables) (g : Fin 4) (live live' : Nat → Bool) : Prop :=
  ∀ p r, t.node? p = some r → r.feeder = g → live p = live' p

section
variable {t : Tables} {g : Fin 4} {live live' : Nat → Bool} (hv : t.failure = none) (ha : AgreeOn t g live live')
include hv ha

theorem boundarySource_congr {p : Nat} {r : NodeRec} (hp : t.position? p = some r) (hr : r.feeder = g) :
    boundarySource t live p = boundarySource t live' p := by
  have htwin : t.twinOf p = r.twin := by simp [Tables.twinOf, hp]
  unfold boundarySource
  rw [ha p r (Tables.node?_of_position? hp) hr, htwin]
  cases hq : r.twin with
  | none => rfl
  | some q =>
    obtain ⟨x, hx, -, hfeeder⟩ := Tables.twin_of_valid hv hp hq
    simp only [ha q x hx (hfeeder.trans hr)]

omit ha in
/-- The children of a position stand on its feeder. -/
theorem Tables.child_of_valid {p c : Nat} {r : NodeRec} (hp : t.position? p = some r) (hc : c ∈ t.children p) :
    ∃ q, t.position? c = some q ∧ q.feeder = r.feeder := by
  obtain ⟨q, hq, hrole, hparent⟩ := Tables.mem_children.mp hc
  obtain ⟨p', r', hp', hr', hfeeder⟩ := Tables.parent_of_valid hv hq hrole
  cases hparent.symm.trans hp'
  cases hp.symm.trans hr'
  exact ⟨q, Tables.position?_eq_some.mpr ⟨hq, by rw [hrole]; nofun⟩, hfeeder.symm⟩

theorem expand_congr {fuel c : Nat} {r : NodeRec} (hc : t.position? c = some r) (hr : r.feeder = g) :
    expand t live fuel c = expand t live' fuel c := by
  induction fuel generalizing c r with
  | zero => rfl
  | succ fuel ih =>
    have hbelow : (t.children c).map (expand t live fuel) = (t.children c).map (expand t live' fuel) :=
      List.map_congr_left fun d hd => by
        obtain ⟨q, hq, hfeeder⟩ := Tables.child_of_valid hv hc hd
        exact ih hq (hfeeder.trans hr)
    unfold expand
    rw [boundarySource_congr hv ha hc hr, hbelow]

theorem lowerEnds_congr {z : Nat} {r : NodeRec} (hz : t.position? z = some r) (hr : r.feeder = g) :
    lowerEnds t live z = lowerEnds t live' z := by
  have hbelow : (t.children z).map (expand t live Config.maxDepth) = (t.children z).map (expand t live' Config.maxDepth) :=
    List.map_congr_left fun d hd => by
      obtain ⟨q, hq, hfeeder⟩ := Tables.child_of_valid hv hz hd
      exact expand_congr hv ha hq (hfeeder.trans hr)
  unfold lowerEnds
  rw [hbelow]

/-- The chain of parents stands on one feeder. -/
theorem hostFrom_congr (hin : t.inRange = true) {fuel p : Nat} {r : NodeRec} (hp : t.position? p = some r)
    (hr : r.feeder = g) : hostFrom t live fuel p = hostFrom t live' fuel p := by
  induction fuel generalizing p r with
  | zero => rfl
  | succ fuel ih =>
    obtain ⟨hnode, hrole⟩ := Tables.position?_eq_some.mp hp
    unfold hostFrom
    rw [boundarySource_congr hv ha hp hr, hnode, Option.bind_some]
    cases hparent : r.parent with
    | none => rfl
    | some q =>
      have hchild : r.role = .node := by
        cases hk : r.role with
        | head => rw [NodeRec.parent_of_head (Tables.inRange_of_node? hin hnode) hk] at hparent; cases hparent
        | node => rfl
        | twin => exact absurd hk hrole
      obtain ⟨q', x, hq', hx, hfeeder⟩ := Tables.parent_of_valid hv hnode hchild
      cases hparent.symm.trans hq'
      simp only [ih hx (hfeeder.trans hr)]

/-- The topology record of a zone reads the nodes of its feeder alone (R6 to R9). -/
theorem topologyOf_congr (hin : t.inRange = true) {z : Nat} {r : NodeRec} (hz : t.position? z = some r)
    (hr : r.feeder = g) : topologyOf t live z = topologyOf t live' z := by
  obtain ⟨hnode, hrole⟩ := Tables.position?_eq_some.mp hz
  have hhost : r.parent.map (hostFrom t live Config.maxDepth) = r.parent.map (hostFrom t live' Config.maxDepth) := by
    cases hparent : r.parent with
    | none => rfl
    | some q =>
      have hchild : r.role = .node := by
        cases hk : r.role with
        | head => rw [NodeRec.parent_of_head (Tables.inRange_of_node? hin hnode) hk] at hparent; cases hparent
        | node => rfl
        | twin => exact absurd hk hrole
      obtain ⟨q', x, hq', hx, hfeeder⟩ := Tables.parent_of_valid hv hnode hchild
      cases hparent.symm.trans hq'
      exact congrArg some (hostFrom_congr hv ha hin hx (hfeeder.trans hr))
  unfold topologyOf
  rw [boundarySource_congr hv ha hz hr, lowerEnds_congr hv ha hz hr, hnode, Option.bind_some, hhost]

end

/-- A validated copy has a HEAD on the feeder of each of its positions. -/
theorem HasDepth.feederUsed {t : Tables} (hv : t.failure = none) {i d : Nat} {r : NodeRec} (h : HasDepth t i d)
    (hr : t.node? i = some r) : t.feederUsed r.feeder = true := by
  induction h generalizing r with
  | @head i q hq hrole =>
    obtain rfl := Option.some.inj (hr.symm.trans hq)
    simp only [Tables.feederUsed, Tables.indices, List.any_eq_true, List.mem_range, Option.any_eq_true, decide_eq_true_eq]
    exact ⟨i, lt_of_node?_eq hr, r, hr, hrole, rfl⟩
  | node hq hrole hp _ ih =>
    cases hr.symm.trans hq
    obtain ⟨p', x, hp', hx, hfeeder⟩ := Tables.parent_of_valid hv hr hrole
    cases hp.symm.trans hp'
    exact hfeeder ▸ ih (Tables.node?_of_position? hx)

theorem mem_four_fin (f : Fin 4) : f ∈ four := by fin_cases f <;> simp [four]

theorem Tables.mem_usedFeeders {t : Tables} (hv : t.failure = none) {z : Nat} {r : NodeRec} (hz : t.position? z = some r) :
    r.feeder ∈ t.usedFeeders := by
  obtain ⟨hr, hrole⟩ := Tables.position?_eq_some.mp hz
  obtain ⟨d, -, hd⟩ := Tables.hasDepth_of_valid hv hr hrole
  exact List.mem_filter.mpr ⟨mem_four_fin _, hd.feederUsed hv hr⟩

/-! ## Records and current topology -/

theorem State.isLive_eq_of_nodes {s t : State} (h : t.nodes = s.nodes) : t.isLive = s.isLive := by
  funext i
  simp only [State.isLive, State.node?, h]

theorem State.newTopology_eq {s t : State} (ha : t.active = s.active) (hn : t.nodes = s.nodes) (z : Nat) :
    t.newTopology z = s.newTopology z := by
  simp only [State.newTopology, ha, State.isLive_eq_of_nodes hn]

theorem State.isLive_setNode {s : State} {i : Nat} {n m : NodeRun} (hn : s.node? i = some n) (j : Nat) :
    (s.setNode i m).isLive j = if j = i then m.isLive else s.isLive j := by
  simp only [State.isLive, State.node?_setNode hn]
  split <;> rfl

theorem State.isLive_of_node? {s : State} {i : Nat} {n : NodeRun} (hn : s.node? i = some n) : s.isLive i = n.isLive := by
  simp [State.isLive, hn, NodeRun.isLive]

/-- Records match the ACTIVE copy, and every topology record is current but for the stale ones. -/
structure State.CurrentBut (stale : Nat → Prop) (s : State) : Prop where
  records : s.RecordsMatch
  topology : ∀ z x, s.zone? z = some x → ¬stale z → x.topo = s.newTopology z

namespace State.CurrentBut

variable {stale : Nat → Prop} {s t : State}

theorem mono (h : s.CurrentBut stale) {stale' : Nat → Prop} (hle : ∀ z, s.zone? z ≠ none → stale z → stale' z) :
    s.CurrentBut stale' :=
  { h with topology := fun z x hx hz => h.topology z x hx fun hs => hz (hle z (by rw [hx]; nofun) hs) }

theorem modZone (h : s.CurrentBut stale) (z : Nat) (g : Zone → Zone) (hg : ∀ x, s.zone? z = some x → (g x).topo = x.topo) :
    (s.modZone z g).CurrentBut stale where
  records :=
    { h.records with
      zonesLength := (s.modZone_zones_length z g).trans h.records.zonesLength
      zones := fun y => by
        rw [State.zone?_modZone]
        split
        · rw [Option.isSome_map]; exact h.records.zones y
        · exact h.records.zones y }
  topology y w hw hy := by
    rw [State.zone?_modZone] at hw
    split at hw
    · rename_i hyz
      subst hyz
      obtain ⟨x, hx, rfl⟩ := Option.map_eq_some_iff.mp hw
      exact (hg x hx).trans (h.topology y x hx hy)
    · exact h.topology y w hw hy

theorem act {z : Nat} (h : s.CurrentBut stale) (hact : ZoneAct z s t) : t.CurrentBut stale := by
  cases hact with
  | modZone g hg => exact h.modZone _ g fun x _ => hg x
  | raise => exact ⟨{ h.records with }, h.topology⟩
  | abandonProof => rw [State.abandonProof_eq]; exact ⟨{ h.records with }, h.topology⟩
  | recomputeLines => exact ⟨{ h.records with }, h.topology⟩
  | raiseTrigger => rw [State.raiseTrigger_frame]; exact ⟨{ h.records with }, h.topology⟩

theorem acts {z : Nat} (h : s.CurrentBut stale) (hacts : ZoneActs z s t) : t.CurrentBut stale := by
  induction hacts with
  | refl => exact h
  | tail _ hstep ih => exact ih.act hstep

/-- The replacement of a feeder's topology records makes them current. -/
theorem replaceTopology (h : s.CurrentBut stale) (f : Fin 4) :
    (s.replaceTopology f).CurrentBut fun z => stale z ∧ z ∉ s.active.zonesOf f where
  records :=
    { h.records with
      zonesLength := by
        refine Eq.trans ?_ h.records.zonesLength
        have hlength (zs : List Nat) (g : Nat → Zone → Zone) (xs : List (Option Zone)) :
            (zs.foldl (fun xs z => xs.modify z (Option.map (g z))) xs).length = xs.length := by
          induction zs generalizing xs with
          | nil => rfl
          | cons z zs ih => rw [List.foldl_cons, ih, List.length_modify]
        exact hlength _ (fun z (x : Zone) => x.withTopology (s.newTopology z)) _
      zones := fun y => by
        rw [State.zone?_replaceTopology]
        split
        · rw [Option.isSome_map]; exact h.records.zones y
        · exact h.records.zones y }
  topology y w hw hy := by
    rw [State.zone?_replaceTopology] at hw
    split at hw
    · obtain ⟨x, -, rfl⟩ := Option.map_eq_some_iff.mp hw
      rfl
    · rename_i hout
      exact h.topology y w hw fun hs => hy ⟨hs, hout⟩

theorem recompute (h : s.CurrentBut stale) (f : Fin 4) :
    (s.recompute f).CurrentBut fun z => stale z ∧ z ∉ s.active.zonesOf f := by
  have hoffs : ∀ (stale : Nat → Prop) (offs : List (Nat × Evaluability)) (t : State), t.CurrentBut stale →
      (offs.foldl (fun t h => t.handOff h.1 h.2) t).CurrentBut stale := by
    intro stale offs
    induction offs with
    | nil => exact fun _ ht => ht
    | cons off offs ih => exact fun t ht => ih _ (ht.acts (t.handOff_acts off.1 off.2))
  exact hoffs _ _ _ (h.replaceTopology f)

theorem recomputeAll (h : s.CurrentBut stale) :
    s.recomputeAll.CurrentBut fun z => stale z ∧ ∀ f ∈ s.active.usedFeeders, z ∉ s.active.zonesOf f := by
  have hfeeders : ∀ (fs : List (Fin 4)) (stale : Nat → Prop) (t : State), t.active = s.active → t.CurrentBut stale →
      (fs.foldl State.recompute t).CurrentBut fun z => stale z ∧ ∀ f ∈ fs, z ∉ s.active.zonesOf f := by
    intro fs
    induction fs with
    | nil => exact fun _ t _ ht => ht.mono fun z _ hz => ⟨hz, nofun⟩
    | cons f fs ih =>
      intro stale t hactive ht
      refine (ih _ (t.recompute f) ((t.recompute_outside f).active.trans hactive) (ht.recompute f)).mono fun z _ hz => ?_
      obtain ⟨⟨hs, hf⟩, hfs⟩ := hz
      exact ⟨hs, List.forall_mem_cons.mpr ⟨hactive ▸ hf, hfs⟩⟩
  exact hfeeders _ _ _ rfl h

/-- Under a validated copy the recomputation of every used feeder leaves no topology record stale. -/
theorem recomputeAll_current (h : s.CurrentBut stale) (hv : s.active.failure = none) :
    s.recomputeAll.CurrentBut fun _ => False := by
  have hactive := s.recomputeAll_outside.active
  have hall := h.recomputeAll
  refine hall.mono fun z hz hs => ?_
  have hsome := hall.records.zones z
  rw [Option.isSome_iff_ne_none.mpr hz, hactive] at hsome
  obtain ⟨r, hr⟩ := Option.isSome_iff_exists.mp hsome.symm
  exact hs.2 r.feeder (Tables.mem_usedFeeders hv hr) (Tables.mem_zonesOf.mpr ⟨r, hr, rfl⟩)

/-- A node's record is replaced: the topology records of other feeders stay current. -/
theorem setNode (h : s.CurrentBut stale) (hv : s.active.failure = none) (hin : s.active.inRange = true) {i : Nat}
    {r : NodeRec} {n : NodeRun} (hr : s.active.node? i = some r) (hn : s.node? i = some n) (m : NodeRun) :
    (s.setNode i m).CurrentBut fun z => stale z ∨ z ∈ s.active.zonesOf r.feeder where
  records :=
    { h.records with
      nodesLength := (s.setNode_nodes_length i m).trans h.records.nodesLength
      nodes := fun j => by
        rw [State.node?_setNode hn]
        split
        · rename_i hj
          subst hj
          exact (congrArg Option.isSome hr).symm
        · exact h.records.nodes j }
  topology z x hx hz := by
    have hsome := h.records.zones z
    rw [show s.zone? z = some x from hx, Option.isSome_some] at hsome
    obtain ⟨q, hq⟩ := Option.isSome_iff_exists.mp hsome.symm
    have hfeeder : q.feeder ≠ r.feeder := fun he => hz (.inr (Tables.mem_zonesOf.mpr ⟨q, hq, he⟩))
    refine (h.topology z x hx fun hs => hz (.inl hs)).trans ?_
    refine topologyOf_congr hv (fun p y hy hg => ?_) hin hq rfl
    rw [State.isLive_setNode hn, if_neg]
    rintro rfl
    cases hr.symm.trans hy
    exact hfeeder hg.symm

/-- A node's record is replaced by one that is LIVE where it was: every topology record stays current. -/
theorem setNode_of_isLive_eq (h : s.CurrentBut stale) {i : Nat} {n m : NodeRun} (hn : s.node? i = some n)
    (hl : m.isLive = n.isLive) : (s.setNode i m).CurrentBut stale where
  records :=
    { h.records with
      nodesLength := (s.setNode_nodes_length i m).trans h.records.nodesLength
      nodes := fun j => by
        rw [State.node?_setNode hn]
        split
        · rename_i hj
          subst hj
          exact (congrArg Option.isSome hn).symm.trans (h.records.nodes j)
        · exact h.records.nodes j }
  topology z x hx hz := by
    refine (h.topology z x hx hz).trans ?_
    have hlive : (s.setNode i m).isLive = s.isLive := by
      funext j
      rw [State.isLive_setNode hn]
      split
      · rename_i hj
        rw [hj, hl, State.isLive_of_node? hn]
      · rfl
    simp only [State.newTopology, State.setNode_active, hlive]

end State.CurrentBut

/-! ## The configuration -/

theorem StagedStep.inRange {t u : Tables} (h : StagedStep t u) (ht : t.inRange = true) : u.inRange = true := by
  simp only [Tables.inRange, Bool.and_eq_true, decide_eq_true_eq] at ht ⊢
  obtain ⟨⟨⟨⟨⟨⟨hheader, hlen⟩, hnodes⟩, hzlen⟩, hzones⟩, hclen⟩, hchannels⟩ := ht
  exact ⟨⟨⟨⟨⟨⟨h.header hheader, h.nodesLength hlen⟩, h.nodes hnodes⟩, h.zonesLength hzlen⟩, h.zones hzones⟩,
    h.channelsLength hclen⟩, h.channels hchannels⟩

theorem Tables.empty_node? (i : Nat) : Tables.empty.node? i = none := by
  simp [Tables.node?, Tables.empty, List.getElem?_replicate]
  split <;> rfl

namespace State.Configured

variable {s t : State}

theorem current (h : s.Configured) : s.CurrentBut fun _ => False := ⟨h.records, fun z x hx _ => h.topology z x hx⟩

theorem of_current (ht : s.TablesValid) (h : s.CurrentBut fun _ => False) : s.Configured :=
  ⟨ht, h.records, fun z x hx => h.topology z x hx id⟩

/-- An engine whose ACTIVE copy holds a record has passed the validation. -/
theorem valid (h : s.Configured) {i : Nat} {r : NodeRec} (hr : s.active.node? i = some r) : s.active.failure = none := by
  cases he : s.engine with
  | running => exact h.tables.running he
  | unconfigured => rw [h.tables.unconfigured he, Tables.empty_node?] at hr; cases hr

/-- What no act of a zone reaches. -/
theorem of_outside (h : s.Configured) (ho : s.OutsideZones t) (hc : t.CurrentBut fun _ => False) : t.Configured :=
  of_current ⟨ho.active ▸ h.tables.active, ho.staged ▸ h.tables.staged,
    fun he => ho.active.trans (h.tables.unconfigured (ho.engine ▸ he)),
    fun he => ho.active ▸ h.tables.running (ho.engine ▸ he)⟩ hc

theorem act {z : Nat} (h : s.Configured) (hact : ZoneAct z s t) : t.Configured := by
  have ho : s.OutsideZones t := by
    cases hact with
    | modZone => exact s.modZone_outside _ _
    | raise => exact s.raise_outside _ _
    | abandonProof => exact s.abandonProof_outside _
    | recomputeLines => exact s.recomputeLines_outside
    | raiseTrigger => exact s.raiseTrigger_outside _ _ _
  exact h.of_outside ho (h.current.act hact)

theorem acts {z : Nat} (h : s.Configured) (hacts : ZoneActs z s t) : t.Configured := by
  induction hacts with
  | refl => exact h
  | tail _ hstep ih => exact ih.act hstep

/-- Changes of fields that the configuration does not name. -/
theorem frame (h : s.Configured) (he : t.engine = s.engine) (ha : t.active = s.active) (hst : t.staged = s.staged)
    (hn : t.nodes = s.nodes) (hz : t.zones = s.zones) : t.Configured := by
  obtain ⟨htables, hrecords, htopology⟩ := h
  have hnode (i : Nat) : t.node? i = s.node? i := by simp only [State.node?, hn]
  have hzone (z : Nat) : t.zone? z = s.zone? z := by simp only [State.zone?, hz]
  refine ⟨⟨ha ▸ htables.active, hst ▸ htables.staged, fun h => ha.trans (htables.unconfigured (he ▸ h)),
    fun h => ha ▸ htables.running (he ▸ h)⟩, ⟨?_, ?_, fun i => ?_, fun z => ?_⟩, fun z x hx => ?_⟩
  · rw [hn, ha]; exact hrecords.nodesLength
  · rw [hz, ha]; exact hrecords.zonesLength
  · rw [hnode, ha]; exact hrecords.nodes i
  · rw [hzone, ha]; exact hrecords.zones z
  · rw [State.newTopology_eq ha hn]
    exact htopology z x ((hzone z).symm.trans hx)

theorem small (h : s.Configured) (hsmall : Small s t) : t.Configured := by
  cases hsmall with
  | stream => exact h.frame rfl rfl rfl rfl rfl
  | counters => exact h.frame rfl rfl rfl rfl rfl
  | forward => exact h.frame rfl rfl rfl rfl rfl
  | sensorNext => exact h.frame rfl rfl rfl rfl rfl
  | staged g hg => exact ⟨{ h.tables with staged := hg.inRange h.tables.staged }, { h.records with }, h.topology⟩
  | feeders => exact h.frame rfl rfl rfl rfl rfl
  | setNode i n m hn _ hl => exact of_current { h.tables with } (h.current.setNode_of_isLive_eq hn hl)
  | record => rw [State.pushRecord_eq]; exact h.frame rfl rfl rfl rfl rfl
  | trigger => rw [State.raiseTrigger_frame]; exact h.frame rfl rfl rfl rfl rfl
  | quiet z g hg => exact of_current { h.tables with } (h.current.modZone z g fun x hx => (hg x hx).topo)
  | raise => exact h.frame rfl rfl rfl rfl rfl

theorem changeNode (h : s.Configured) {i : Nat} {r : NodeRec} {n m : NodeRun} (hr : s.active.node? i = some r)
    (hn : s.node? i = some n) : (s.changeNode i r.feeder n m).Configured := by
  unfold State.changeNode
  split
  · rename_i hl
    exact of_current { h.tables with } (h.current.setNode_of_isLive_eq hn hl.symm)
  · have hstale := (h.current.setNode (h.valid hr) h.tables.active hr hn m).recompute r.feeder
    have ho := (s.setNode i m).recompute_outside r.feeder
    refine of_current ⟨ho.active ▸ h.tables.active, ho.staged ▸ h.tables.staged,
      fun he => ho.active.trans (h.tables.unconfigured (ho.engine ▸ he)),
      fun he => ho.active ▸ h.tables.running (ho.engine ▸ he)⟩ (hstale.mono fun z _ hz => ?_)
    exact hz.1.elim id fun hin => hz.2 hin

theorem swapTables_records (s : State) : s.swapTables.CurrentBut fun _ => True where
  records :=
    { nodesLength := by simp [State.swapTables, reconcileNodes, Tables.indices]
      zonesLength := by simp [State.swapTables, reconcileZones, Tables.indices]
      nodes := fun i => by rw [State.node?_swapTables, Option.isSome_map]; rfl
      zones := fun z => by rw [State.zone?_swapTables, Option.isSome_map]; rfl }
  topology _ _ _ h := absurd trivial h

theorem activate (h : s.Configured) (hv : s.staged.failure = none) : s.activate.Configured := by
  have hproof : (s.swapTables.reconcileProof s.active).CurrentBut fun _ => True := by
    rw [State.reconcileProof_eq]
    exact ⟨{ (swapTables_records s).records with }, (swapTables_records s).topology⟩
  have hbase : (s.swapTables.reconcileProof s.active).active = s.staged
      ∧ (s.swapTables.reconcileProof s.active).staged = s.active := by
    rw [State.reconcileProof_eq]; exact ⟨rfl, rfl⟩
  have hcurrent := hproof.recomputeAll_current (by rw [hbase.1]; exact hv)
  have ho := (s.swapTables.reconcileProof s.active).recomputeAll_outside
  have hactive : s.activate.active = s.staged := by
    unfold State.activate
    rw [State.startRunning_eq]
    exact ho.active.trans hbase.1
  have hstaged : s.activate.staged = s.active := by
    unfold State.activate
    rw [State.startRunning_eq]
    exact ho.staged.trans hbase.2
  have hengine : s.activate.engine = .running := by
    unfold State.activate State.startRunning
    split
    · rfl
    · rename_i he
      cases hs : State.engine _ with
      | running => rfl
      | unconfigured => exact absurd hs he
  refine of_current ⟨hactive ▸ h.tables.staged, hstaged ▸ h.tables.active, fun he => ?_, fun _ => hactive ▸ hv⟩ ?_
  · rw [hengine] at he; cases he
  · unfold State.activate
    rw [State.startRunning_eq]
    exact ⟨{ hcurrent.records with }, hcurrent.topology⟩

theorem clearRuntime_records (s : State) : s.clearRuntime.CurrentBut fun _ => True where
  records :=
    { nodesLength := by simp [State.clearRuntime]
      zonesLength := by simp [State.clearRuntime, Tables.indices]
      nodes := fun i => by
        simp only [State.node?, State.clearRuntime, List.getElem?_map, Tables.node?]
        cases s.active.nodes[i]? with
        | none => rfl
        | some r => cases r <;> rfl
      zones := fun z => by rw [State.Sound.zone?_clearRuntime, Option.isSome_map]; rfl }
  topology _ _ _ h := absurd trivial h

theorem restart (h : s.Configured) : s.restart.Configured := by
  have ho := s.clearRuntime.recomputeAll_outside
  have htables : s.restart.TablesValid := ⟨by exact ho.active ▸ h.tables.active, by exact ho.staged ▸ h.tables.staged,
    fun he => ho.active.trans (h.tables.unconfigured (ho.engine ▸ he)),
    fun he => by
      have := h.tables.running (ho.engine ▸ he)
      exact ho.active ▸ this⟩
  have hall := (clearRuntime_records s).recomputeAll
  have hcurrent : s.clearRuntime.recomputeAll.CurrentBut fun _ => False := by
    cases he : s.engine with
    | running => exact (clearRuntime_records s).recomputeAll_current (h.tables.running he)
    | unconfigured =>
      refine hall.mono fun z hz _ => hz ?_
      have hnone := hall.records.zones z
      rw [ho.active, show s.clearRuntime.active = .empty from h.tables.unconfigured he, Tables.position?,
        Tables.empty_node?] at hnone
      exact Option.isNone_iff_eq_none.mp (by simpa using hnone)
  exact of_current htables ⟨{ hcurrent.records with }, hcurrent.topology⟩

theorem hardReset (strap : BitVec 2) (l : List Instr) :
    State.Configured { State.reset with strap := strap, pending := l } where
  tables := ⟨Tables.empty_inRange, Tables.empty_inRange, fun _ => rfl, nofun⟩
  records :=
    { nodesLength := rfl
      zonesLength := rfl
      nodes := fun i => by
        rw [State.NodesBounded.node?_hardReset, show State.active _ = Tables.empty from rfl, Tables.empty_node?]
        rfl
      zones := fun z => by
        rw [State.Sound.zone?_hardReset, show State.active _ = Tables.empty from rfl, Tables.position?, Tables.empty_node?]
        rfl }
  topology z x hx := by rw [State.Sound.zone?_hardReset] at hx; cases hx

theorem kept : Kept State.Configured where
  pending _ h := h.frame rfl rfl rfl rfl rfl
  tick h := h.frame rfl rfl rfl rfl rfl
  hardReset := .hardReset
  small h hsmall := h.small hsmall
  changeNode h hr hn _ := h.changeNode hr hn
  evaluateZone z h := h.acts (State.evaluateZone_acts _ z)
  blindTrip h _ _ := h.acts (State.blindTrip_acts _ _)
  presence _ _ h := h.frame rfl rfl rfl rfl rfl
  release _ h _ _ _ := h.acts (State.release_acts _ _ _ _)
  free _ h := h.frame rfl rfl rfl rfl rfl
  proveZone _ _ _ h _ := h.frame rfl rfl rfl rfl rfl
  proveLine _ _ _ h _ := h.frame rfl rfl rfl rfl rfl
  completeZone _ _ h _ := h.frame rfl rfl rfl rfl rfl
  completeLine _ h _ := h.frame rfl rfl rfl rfl rfl
  activate h hv _ := h.activate hv
  restart h := h.restart
  flushHeld h := h.frame rfl rfl rfl rfl rfl
  replies _ h := h.frame rfl rfl rfl rfl rfl
  transmit h := by rw [State.chooseNext_eq]; exact h.frame rfl rfl rfl rfl rfl
  queued h _ := h.frame rfl rfl rfl rfl rfl

end State.Configured

/-- Settles O55: a node that enters or leaves LIVE has its own feeder recomputed, and no other feeder's zone reads it. -/
theorem stepKeepsTheConfiguration : Obligations.StepKeepsTheConfiguration :=
  fun _ _ h hstep => State.Configured.kept.step h hstep

end Sys2Proof.Machine

/-!
Every command completes within its event, and what it leaves alone (R1, R135, R152); the model's queue, the state after a hard
reset, and that it meets every invariant (R136, R152, R162).
-/

namespace Sys2Proof.Machine

/-! ## Completion -/

/-- No command faults and none is refused. -/
theorem exec_completes (c : Instr) (s : State) : ∃ t, exec c s = .next t := by
  cases c with
  | controllerFrameRouting =>
    change ∃ t, execControllerFrameRouting s = .next t
    unfold execControllerFrameRouting routeFrame
    split
    · exact ⟨_, rfl⟩
    · split
      · split
        · obtain ⟨body, h⟩ := execManage_taken _ _ _ _
          exact ⟨_, h⟩
        · exact ⟨_, rfl⟩
      · exact ⟨_, rfl⟩
  | _ => exact ⟨_, rfl⟩

/-! ## Time, strap and the waiting commands -/

/-- The same commands wait, and time and strap stand. -/
structure State.SameClock (s t : State) : Prop where
  pending : t.pending = s.pending
  now : t.now = s.now
  strap : t.strap = s.strap

/-- The ACTIVE copy and the engine state stand. -/
structure State.SameTables (s t : State) : Prop where
  active : t.active = s.active
  engine : t.engine = s.engine

theorem State.SameClock.of_outside {s t u : State} (h : s.SameClock t) (ho : t.OutsideZones u) : s.SameClock u :=
  ⟨ho.pending.trans h.pending, ho.now.trans h.now, ho.strap.trans h.strap⟩

theorem State.SameTables.of_outside {s t u : State} (h : s.SameTables t) (ho : t.OutsideZones u) : s.SameTables u :=
  ⟨ho.active.trans h.active, ho.engine.trans h.engine⟩

theorem State.SameClock.stands (s : State) : Stands s.SameClock where
  small h hsmall := by
    cases hsmall with
    | record => rw [State.pushRecord_eq]; exact { h with }
    | trigger => rw [State.raiseTrigger_frame]; exact { h with }
    | _ => exact { h with }
  changeNode {u} i f n m h := .of_outside (t := u.setNode i m) { h with } (u.changeNode_outside i f n m)
  evaluateZone z h := h.of_outside (State.evaluateZone_outside _ z)
  blindTrip h _ _ := h.of_outside (State.blindTrip_outside _ _)
  presence _ _ h := { h with }
  proof _ h := { h with }
  lines _ h := { h with }
  replies _ h := { h with }
  transmit h := by rw [State.chooseNext_eq]; exact { h with }
  queued _ _ h := { h with }

theorem State.SameTables.stands (s : State) : Stands s.SameTables where
  small h hsmall := by
    cases hsmall with
    | record => rw [State.pushRecord_eq]; exact { h with }
    | trigger => rw [State.raiseTrigger_frame]; exact { h with }
    | _ => exact { h with }
  changeNode {u} i f n m h := .of_outside (t := u.setNode i m) { h with } (u.changeNode_outside i f n m)
  evaluateZone z h := h.of_outside (State.evaluateZone_outside _ z)
  blindTrip h _ _ := h.of_outside (State.blindTrip_outside _ _)
  presence _ _ h := { h with }
  proof _ h := { h with }
  lines _ h := { h with }
  replies _ h := { h with }
  transmit h := by rw [State.chooseNext_eq]; exact { h with }
  queued _ _ h := { h with }

theorem State.restart_outside (s : State) : s.clearRuntime.OutsideZones s.restart :=
  s.clearRuntime.recomputeAll_outside.trans (State.recomputeLines_outside _)

theorem commandOf_ne_hardReset (code tag : Byte) (params : List Byte) (strap : BitVec 2) :
    commandOf code tag params ≠ .hardReset strap := by
  unfold commandOf
  iterate 27 refine ite_ne_of_ne nofun ?_
  nofun

theorem State.SameClock.spares {s : State} {c : Instr} (hc : ∀ strap, c ≠ .hardReset strap) : Spares s.SameClock s c where
  hardReset strap h := absurd h (hc strap)
  release _ _ _ _ _ := .of_outside ⟨rfl, rfl, rfl⟩ (s.release_outside _ _ _)
  free _ _ _ _ _ _ := ⟨rfl, rfl, rfl⟩
  activate _ _ :=
    have ho := s.activate_swapped
    ⟨ho.pending, ho.now, ho.strap⟩
  restart _ _ _ := .of_outside (t := s.clearRuntime) ⟨rfl, rfl, rfl⟩ s.restart_outside

theorem State.SameTables.spares {s : State} {c : Instr} (hc : ∀ strap, c ≠ .hardReset strap)
    (ha : ∀ tag params, c ≠ .activate tag params) : Spares s.SameTables s c where
  hardReset strap h := absurd h (hc strap)
  release _ _ _ _ _ := .of_outside ⟨rfl, rfl⟩ (s.release_outside _ _ _)
  free _ _ _ _ _ _ := ⟨rfl, rfl⟩
  activate _ h := absurd h (ha _ _)
  restart _ _ _ := .of_outside (t := s.clearRuntime) ⟨rfl, rfl⟩ s.restart_outside

theorem exec_sameClock {s t : State} {c : Instr} (hc : ∀ strap, c ≠ .hardReset strap) (h : exec c s = .next t) :
    s.SameClock t := by
  refine (State.SameClock.stands s).did ⟨rfl, rfl, rfl⟩ (State.SameClock.spares hc) (exec_did h) fun _ rest code tag params hr => ?_
  have hrest : State.SameClock { s with awaitingRouting := rest } t :=
    (State.SameClock.stands _).did ⟨rfl, rfl, rfl⟩ (State.SameClock.spares (commandOf_ne_hardReset code tag params)) (exec_did hr)
      fun hrouting => absurd hrouting (commandOf_ne_routing code tag params)
  exact { hrest with }

theorem exec_sameTables {s t : State} {c : Instr} (hc : ∀ strap, c ≠ .hardReset strap)
    (ha : ∀ tag params, c ≠ .activate tag params) (hr : c ≠ .controllerFrameRouting) (h : exec c s = .next t) :
    s.SameTables t :=
  (State.SameTables.stands s).did ⟨rfl, rfl⟩ (State.SameTables.spares hc ha) (exec_did h) fun hrouting => absurd hrouting hr

/-- Settles O53: no act but the swap and a hard reset writes the tables, and none but a hard reset time or strap. -/
theorem everyCommandIsTakenWhole : Obligations.EveryCommandIsTakenWhole := by
  intro s c
  obtain ⟨t, h⟩ := exec_completes c s
  refine ⟨t, h, ?_, fun hc => ?_, fun hc ha hr => ?_⟩
  · by_cases hreset : ∃ strap, c = .hardReset strap
    · obtain ⟨strap, rfl⟩ := hreset
      cases h
      rfl
    · exact (exec_sameClock (fun strap hc => hreset ⟨strap, hc⟩) h).pending
  · obtain ⟨-, hnow, hstrap⟩ := exec_sameClock hc h
    exact ⟨hnow, hstrap⟩
  · obtain ⟨hactive, hengine⟩ := exec_sameTables hc ha hr h
    exact ⟨hactive, hengine⟩

/-! ## The queue and the reset -/

/-- Settles O1, by the two cases of a step. -/
theorem stepRunsTheFrontCommand : Obligations.StepRunsTheFrontCommand :=
  ⟨fun _ _ _ => rfl, fun s h => by
    unfold step
    split
    · rfl
    · rename_i hp; rw [h] at hp; cases hp⟩

/-- Settles O2, field by field. -/
theorem hardResetLeavesTheResetState : Obligations.HardResetLeavesTheResetState := by
  intro strap s
  refine ⟨_, rfl, rfl, rfl, rfl, rfl, rfl, ?nodes, ?zones, Four.get_all _, rfl, Four.get_all _, rfl, rfl, ?rx, rfl, rfl, rfl,
    rfl, rfl, rfl, rfl, rfl, rfl, Four.get_all _, Four.get_all _, rfl, rfl, rfl⟩
  case nodes => exact State.NodesBounded.node?_hardReset strap s.pending
  case zones => exact State.Sound.zone?_hardReset strap s.pending
  case rx => intro p; cases p <;> rfl

/-- The state after reset is what a hard reset leaves with its strap at 0 and no command waiting. -/
theorem State.reset_eq : State.reset = { State.reset with strap := 0, pending := [] } := rfl

/-- Settles O3: each invariant holds of what a hard reset leaves. -/
theorem resetMeetsEveryInvariant : Obligations.ResetMeetsEveryInvariant := by
  have hqueues : State.reset.QueuesFit := State.QueuesFit.kept.hardReset 0 []
  have hreplies : State.reset.RepliesFit := ⟨by simp [State.reset, Config.replyCapacity], nofun⟩
  have hsound : State.reset.Sound := State.Sound.kept.hardReset 0 []
  obtain ⟨hzones, htimers⟩ := State.sound_iff.mp hsound
  exact ⟨State.queuesBounded_iff.mpr ⟨hqueues, hreplies⟩, State.Configured.kept.hardReset 0 [],
    State.LinesFollow.kept.hardReset 0 [], hzones, State.CaptureWhole.kept.hardReset 0 [], htimers,
    State.NodesBounded.kept.hardReset 0 []⟩

end Sys2Proof.Machine

/-!
The table records as bytes (section 9.2, R153, R156): a record in range is read back from the bytes that write it, and from no
other bytes; LOAD HEADER, LOAD ZONE PROFILE and LOAD CHANNEL PROFILE.
-/

namespace Sys2Proof.Machine

/-! ## Fields -/

theorem policyOf_eq_some {b : Byte} {p : LinePolicy} : policyOf b = some p ↔ p.code = b := by
  constructor
  · intro h
    unfold policyOf at h
    cases p <;> grind [LinePolicy.code]
  · rintro rfl
    cases p <;> rfl

theorem lossActionOf_eq_some {b : Byte} {a : LossAction} : lossActionOf b = some a ↔ a.code = b := by
  constructor
  · intro h
    unfold lossActionOf at h
    cases a <;> grind [LossAction.code]
  · rintro rfl
    cases a <;> rfl

/-- A four-byte field read back is the number written, where it fits (R121). -/
theorem u32_be32 {n : Nat} (h : n < 4294967296) :
    u16 (byteOf (n / 16777216)) (byteOf (n / 65536)) * 65536 + u16 (byteOf (n / 256)) (byteOf n) = n := by
  simp [u16, byteOf]; omega

/-- A four-byte field of four given bytes (R121). -/
theorem be32_u32 (a b c d : Byte) : be32 (u16 a b * 65536 + u16 c d) = [a, b, c, d] := by
  have ha := a.isLt
  have hb := b.isLt
  have hc := c.isLt
  have hd := d.isLt
  simp only [be32, u16, byteOf, List.cons.injEq, and_true]
  refine ⟨?_, ?_, ?_, ?_⟩ <;> apply BitVec.eq_of_toNat_eq <;> simp <;> omega

theorem within_iff {lo hi x : Nat} : within lo hi x = true ↔ lo ≤ x ∧ x ≤ hi := decide_eq_true_iff

/-- The trigger mask is read from a byte whose bits 3 to 7 are zero. -/
theorem triggerMask_of_lt {b : Byte} (h : b.toNat < 8) : (b.setWidth 3).setWidth 8 = b := by bv_omega

theorem triggerMask_back (m : BitVec 3) : (m.setWidth 8).toNat < 8 ∧ (m.setWidth 8).setWidth 3 = m := by
  have := m.isLt
  exact ⟨by bv_omega, by bv_omega⟩

/-! ## The header -/

theorem Header.encode_length (h : Header) : h.encode.length = 18 := rfl

theorem Header.encode_of_parse {bytes : List Byte} {h : Header} (hp : parseHeader bytes = some h) : h.encode = bytes := by
  have hlength := (parseHeader_some hp).1
  match bytes, hlength with
  | [b0, b1, b2, b3, b4, b5, b6, b7, b8, b9, b10, b11, b12, b13, b14, b15, b16, b17], _ =>
    simp only [parseHeader, byteAt, u16At, List.getD_cons_zero, List.getD_cons_succ, bind, Option.bind_eq_some_iff,
      policyOf_eq_some, Option.ite_none_right_eq_some, Nat.reduceAdd] at hp
    obtain ⟨_, rfl, _, rfl, _, rfl, _, rfl, ⟨-, hmask, -⟩, hh⟩ := hp
    cases hh
    simp [Header.encode, Four.toList, be16_u16, triggerMask_of_lt hmask]

theorem parseHeader_encode {h : Header} (hin : h.inRange = true) : parseHeader h.encode = some h := by
  have hranges := hin
  simp only [Header.inRange, periodInRange, Four.toList, List.all_cons, List.all_nil, Bool.and_eq_true, within_iff]
    at hranges
  obtain ⟨⟨⟨⟨⟨⟨-, h0⟩, -⟩, ⟨⟨-, h1⟩, -⟩, ⟨⟨-, h2⟩, -⟩, ⟨⟨-, h3⟩, -⟩, -⟩, -, hs⟩, -, hpre⟩, -, hpost⟩ := hranges
  obtain ⟨hmask, hback⟩ := triggerMask_back h.triggerMask
  have hbyte : (byteOf h.preCount).toNat = h.preCount := toNat_byteOf (by omega)
  have hpolicy (p : LinePolicy) : policyOf p.code = some p := policyOf_eq_some.mpr rfl
  simp only [parseHeader, Header.encode, Four.toList, be16, List.flatMap_cons, List.flatMap_nil, List.map_cons, List.map_nil,
    List.cons_append, List.nil_append, List.append_nil, byteAt, u16At, List.getD_cons_zero, List.getD_cons_succ, bind,
    Nat.reduceAdd, hpolicy, Option.bind_some, u16_be16 (show h.periods.n0 ≤ 65535 by omega),
    u16_be16 (show h.periods.n1 ≤ 65535 by omega), u16_be16 (show h.periods.n2 ≤ 65535 by omega),
    u16_be16 (show h.periods.n3 ≤ 65535 by omega), u16_be16 (show h.silenceLimit ≤ 65535 by omega),
    u16_be16 (show h.postCount ≤ 65535 by omega), hback, hbyte]
  exact if_pos ⟨rfl, hmask, hin⟩

theorem parseHeader_eq_some {bytes : List Byte} {h : Header} :
    parseHeader bytes = some h ↔ h.encode = bytes ∧ h.inRange = true :=
  ⟨fun hp => ⟨Header.encode_of_parse hp, (parseHeader_some hp).2⟩, fun ⟨hbytes, hin⟩ => hbytes ▸ parseHeader_encode hin⟩

/-! ## Zone profiles -/

theorem ZoneProfile.encode_length (p : ZoneProfile) : p.encode.length = 31 := rfl

theorem ZoneProfile.encode_of_parse {bytes : List Byte} {p : ZoneProfile} (hp : parseZoneProfile bytes = some p) :
    p.encode = bytes := by
  have hlength := (parseZoneProfile_some hp).1
  match bytes, hlength with
  | [b0, b1, b2, b3, b4, b5, b6, b7, b8, b9, b10, b11, b12, b13, b14, b15, b16, b17, b18, b19, b20, b21, b22, b23, b24, b25,
      b26, b27, b28, b29, b30], _ =>
    simp only [parseZoneProfile, byteAt, u16At, u32At, List.getD_cons_zero, List.getD_cons_succ, bind,
      Option.bind_eq_some_iff, lossActionOf_eq_some, Option.ite_none_right_eq_some, Nat.reduceAdd] at hp
    obtain ⟨_, rfl, -, hh⟩ := hp
    cases hh
    simp [ZoneProfile.encode, be16_u16, be32_u32]

theorem parseZoneProfile_encode {p : ZoneProfile} (hin : p.inRange = true) : parseZoneProfile p.encode = some p := by
  have hranges := hin
  simp only [ZoneProfile.inRange, Weights.inRange, Bool.and_eq_true, within_iff, and_assoc] at hranges
  obtain ⟨-, hlive, -, hrho, -, hend, -, hlost, -, hleak, -, hkb, -, hw1, -, hw2, -, hw3, -, hw4, -, hw5, -, hdecay, -,
    hsuspect, -, hconfirm, -, hstep, -, hlimit, -, hmemory, -, hgrace, -, hwindow⟩ := hranges
  have hbyte {n : Nat} (h : n ≤ 255) : (byteOf n).toNat = n := toNat_byteOf (Nat.lt_succ_of_le h)
  have haction : lossActionOf p.lossAction.code = some p.lossAction := lossActionOf_eq_some.mpr rfl
  simp only [parseZoneProfile, ZoneProfile.encode, be16, be32, List.cons_append, List.nil_append, byteAt, u16At, u32At,
    List.getD_cons_zero, List.getD_cons_succ, bind, Nat.reduceAdd, haction, Option.bind_some,
    u16_be16 hlive, u16_be16 (show p.rhoOpen ≤ 65535 by omega), u16_be16 (show p.dEnd ≤ 65535 by omega),
    u16_be16 (show p.dLost ≤ 65535 by omega), u16_be16 (show p.leakThreshold ≤ 65535 by omega),
    u16_be16 (show p.stepTime ≤ 65535 by omega), u16_be16 (show p.degradeGrace ≤ 65535 by omega),
    u16_be16 (show p.lossWindow ≤ 65535 by omega), u32_be32 (show p.tripMemory < 4294967296 by omega),
    hbyte (show p.kb ≤ 255 by omega), hbyte (show p.weights.open_ ≤ 255 by omega),
    hbyte (show p.weights.leak ≤ 255 by omega), hbyte (show p.weights.arc ≤ 255 by omega),
    hbyte (show p.weights.motion ≤ 255 by omega), hbyte (show p.weights.lost ≤ 255 by omega), hbyte hdecay, hbyte hsuspect,
    hbyte hconfirm, hbyte (show p.lockoutLimit ≤ 255 by omega)]
  exact if_pos ⟨rfl, hin⟩

theorem parseZoneProfile_eq_some {bytes : List Byte} {p : ZoneProfile} :
    parseZoneProfile bytes = some p ↔ p.encode = bytes ∧ p.inRange = true :=
  ⟨fun hp => ⟨ZoneProfile.encode_of_parse hp, (parseZoneProfile_some hp).2⟩,
    fun ⟨hbytes, hin⟩ => hbytes ▸ parseZoneProfile_encode hin⟩

/-! ## Channel profiles -/

theorem ChannelProfile.encode_length (p : ChannelProfile) : p.encode.length = 26 := rfl

theorem ChannelProfile.encode_of_parse {bytes : List Byte} {p : ChannelProfile} (hp : parseChannelProfile bytes = some p) :
    p.encode = bytes := by
  have hlength := (parseChannelProfile_some hp).1
  match bytes, hlength with
  | [b0, b1, b2, b3, b4, b5, b6, b7, b8, b9, b10, b11, b12, b13, b14, b15, b16, b17, b18, b19, b20, b21, b22, b23, b24, b25],
    _ =>
    simp only [parseChannelProfile, byteAt, u16At, List.getD_cons_zero, List.getD_cons_succ,
      Option.ite_none_right_eq_some, Nat.reduceAdd] at hp
    obtain ⟨-, hh⟩ := hp
    cases hh
    simp [ChannelProfile.encode, be16_u16]

theorem parseChannelProfile_encode {p : ChannelProfile} (hin : p.inRange = true) : parseChannelProfile p.encode = some p := by
  have hranges := hin
  simp only [ChannelProfile.inRange, Health.inRange, Bool.and_eq_true, within_iff, and_assoc] at hranges
  obtain ⟨-, hkf, -, hks, -, himin, -, hkl, -, hhcap, -, hson, -, hsoff, -, harc, -, hsilence, -, hwarm, -, hmotion, -,
    hgaps, -, hstales, -, hsilences, -, hsaturations⟩ := hranges
  have hbyte {n : Nat} (h : n ≤ 255) : (byteOf n).toNat = n := toNat_byteOf (Nat.lt_succ_of_le h)
  simp only [parseChannelProfile, ChannelProfile.encode, be16, List.cons_append, List.nil_append, byteAt, u16At,
    List.getD_cons_zero, List.getD_cons_succ, Nat.reduceAdd, u16_be16 himin, u16_be16 hhcap, u16_be16 hson,
    u16_be16 (show p.sOff ≤ 65535 by omega), u16_be16 (show p.silenceLimit ≤ 65535 by omega),
    u16_be16 (show p.warmUpCount ≤ 65535 by omega), u16_be16 (show p.motionHold ≤ 65535 by omega), u16_be16 hgaps,
    u16_be16 hstales, u16_be16 hsilences, u16_be16 hsaturations, hbyte (show p.kf ≤ 255 by omega),
    hbyte (show p.ks ≤ 255 by omega), hbyte (show p.kl ≤ 255 by omega), hbyte (show p.arcReleaseCount ≤ 255 by omega)]
  exact if_pos ⟨rfl, hin⟩

theorem parseChannelProfile_eq_some {bytes : List Byte} {p : ChannelProfile} :
    parseChannelProfile bytes = some p ↔ p.encode = bytes ∧ p.inRange = true :=
  ⟨fun hp => ⟨ChannelProfile.encode_of_parse hp, (parseChannelProfile_some hp).2⟩,
    fun ⟨hbytes, hin⟩ => hbytes ▸ parseChannelProfile_encode hin⟩

/-- Settles O7: each record's bytes are read as the record that writes them. -/
theorem tableRecordsParseBack : Obligations.TableRecordsParseBack :=
  ⟨fun h hin => ⟨h.encode_length, parseHeader_encode hin⟩,
    fun r hin => ⟨r.encode_length, parseNode_eq_present.mpr ⟨rfl, hin⟩⟩,
    parseNode_eq_absent.mpr ⟨_, rfl, List.length_replicate⟩,
    fun p hin => ⟨p.encode_length, parseZoneProfile_encode hin⟩,
    fun p hin => ⟨p.encode_length, parseChannelProfile_encode hin⟩⟩

/-! ## LOAD HEADER, LOAD ZONE PROFILE and LOAD CHANNEL PROFILE (R153) -/

/-- Bytes that write no record in range are read as none. -/
theorem eq_none_of_parse {α : Type} {parse : List Byte → Option α} {encode : α → List Byte} {inRange : α → Bool}
    (hparse : ∀ {bytes : List Byte} {x : α}, parse bytes = some x ↔ encode x = bytes ∧ inRange x = true) {bytes : List Byte}
    (h : ∀ x, inRange x = true → encode x ≠ bytes) : parse bytes = none :=
  Option.eq_none_iff_forall_ne_some.mpr fun x hx =>
    have ⟨hbytes, hin⟩ := hparse.mp hx
    h x hin hbytes

section
variable {s : State} {tag i : Byte} {bytes params : List Byte}

theorem execLoadHeader_of_parsed {h : Header} (htake : s.CanTake) (hp : parseHeader params = some h) :
    execLoadHeader tag params s
      = .next (State.answer { s with staged := { s.staged with header := h } } 0x10 tag .done []) := by
  obtain ⟨hroom, hproof⟩ := htake
  exact congrArg Host.Outcome.next (State.takeCommand_of_answer hroom (by simp [hp, done, State.modStaged]) hproof)

theorem execLoadHeader_of_none (htake : s.CanTake) (hp : parseHeader params = none) :
    execLoadHeader tag params s = .next (s.answer 0x10 tag .badParam []) :=
  congrArg Host.Outcome.next (State.takeCommand_of_refusal htake (by simp only [hp]))

/-- A numbered record whose number is out of range, or whose bytes are read as none, is none (R153). -/
theorem numbered_bind_eq_none {α : Type} {n : Nat} {parse : List Byte → Option α}
    (h : n ≤ i.toNat ∨ parse bytes = none) :
    ((numbered n (i :: bytes)).bind fun ib => (parse ib.2).map fun p => (ib.1, p)) = none := by
  obtain hi | hparse := h
  · simp [numbered_of_le hi]
  · by_cases hi : i.toNat < n
    · simp [numbered_of_lt hi, hparse]
    · simp [numbered_of_le (Nat.le_of_not_lt hi)]

theorem execLoadZoneProfile_of_parsed {p : ZoneProfile} (htake : s.CanTake) (hi : i.toNat < Config.zoneProfileCount)
    (hp : parseZoneProfile bytes = some p) :
    execLoadZoneProfile tag (i :: bytes) s = .next (State.answer
      { s with staged := { s.staged with zoneProfiles := s.staged.zoneProfiles.set i.toNat p } } 0x12 tag .done []) := by
  obtain ⟨hroom, hproof⟩ := htake
  exact congrArg Host.Outcome.next
    (State.takeCommand_of_answer hroom (by simp [numbered_of_lt hi, hp, done, State.modStaged]) hproof)

theorem execLoadZoneProfile_of_refused (htake : s.CanTake)
    (h : Config.zoneProfileCount ≤ i.toNat ∨ parseZoneProfile bytes = none) :
    execLoadZoneProfile tag (i :: bytes) s = .next (s.answer 0x12 tag .badParam []) :=
  congrArg Host.Outcome.next (State.takeCommand_of_refusal htake (by simp only [numbered_bind_eq_none h]))

theorem execLoadChannelProfile_of_parsed {p : ChannelProfile} (htake : s.CanTake)
    (hi : i.toNat < Config.channelProfileCount) (hp : parseChannelProfile bytes = some p) :
    execLoadChannelProfile tag (i :: bytes) s = .next (State.answer
      { s with staged := { s.staged with channelProfiles := s.staged.channelProfiles.set i.toNat p } }
      0x13 tag .done []) := by
  obtain ⟨hroom, hproof⟩ := htake
  exact congrArg Host.Outcome.next
    (State.takeCommand_of_answer hroom (by simp [numbered_of_lt hi, hp, done, State.modStaged]) hproof)

theorem execLoadChannelProfile_of_refused (htake : s.CanTake)
    (h : Config.channelProfileCount ≤ i.toNat ∨ parseChannelProfile bytes = none) :
    execLoadChannelProfile tag (i :: bytes) s = .next (s.answer 0x13 tag .badParam []) :=
  congrArg Host.Outcome.next (State.takeCommand_of_refusal htake (by simp only [numbered_bind_eq_none h]))

end

/-- Settles O5: what a load does with the bytes is decided by the record they are read as. -/
theorem loadHeaderAndProfilesTakeTheRecordsInRange : Obligations.LoadHeaderAndProfilesTakeTheRecordsInRange := by
  refine ⟨fun s tag params htake => ⟨fun h hin hbytes => ?_, fun hno => ?_⟩,
    fun s tag i bytes htake => ⟨fun p hi hin hbytes => ?_, fun hno => ?_, fun p hi hin hbytes => ?_, fun hno => ?_⟩⟩
  · exact execLoadHeader_of_parsed htake (parseHeader_eq_some.mpr ⟨hbytes, hin⟩)
  · exact execLoadHeader_of_none htake (eq_none_of_parse parseHeader_eq_some hno)
  · exact execLoadZoneProfile_of_parsed htake hi (parseZoneProfile_eq_some.mpr ⟨hbytes, hin⟩)
  · exact execLoadZoneProfile_of_refused htake (hno.imp_right (eq_none_of_parse parseZoneProfile_eq_some))
  · exact execLoadChannelProfile_of_parsed htake hi (parseChannelProfile_eq_some.mpr ⟨hbytes, hin⟩)
  · exact execLoadChannelProfile_of_refused htake (hno.imp_right (eq_none_of_parse parseChannelProfile_eq_some))

end Sys2Proof.Machine

/-!
The feeder stream, received: frames to and from bytes (R121, R122), the hunt (R123, R124), and what becomes of a whole frame
(R125 to R128).
-/

namespace Sys2Proof.Machine

/-! ## Frames and bytes (R121, R122) -/

theorem Frame.bytes_drop (f : Frame) : f.bytes.drop 2
    = f.kind :: f.address :: f.sequence :: byteOf f.payload.length
      :: (f.payload ++ [f.crc.extractLsb' 8 8, f.crc.extractLsb' 0 8]) := rfl

/-- The two CRC bytes, high byte first, are the CRC. -/
theorem crc_bytes (c : BitVec 16) : c.extractLsb' 8 8 ++ c.extractLsb' 0 8 = c := by
  refine BitVec.eq_of_getLsbD_eq fun i hi => ?_
  by_cases h : i < 8
  · exact (BitVec.getLsbD_append ..).trans (by simp [h])
  · exact (BitVec.getLsbD_append ..).trans (by simp [h, show i - 8 < 8 by omega, show 8 + (i - 8) = i by omega])

/-- A frame is read back from the bytes that write it (R121, R124). -/
theorem parseFrame_bytes {f : Frame} (h : f.payload.length ≤ Config.maxPayload) : parseFrame (f.bytes.drop 2) = some f := by
  have hmax : Config.maxPayload = 200 := rfl
  have hlen : (byteOf f.payload.length).toNat = f.payload.length := toNat_byteOf (by omega)
  have hhigh : byteAt (f.payload ++ [f.crc.extractLsb' 8 8, f.crc.extractLsb' 0 8]) f.payload.length
      = f.crc.extractLsb' 8 8 := by simp [byteAt]
  have hlow : byteAt (f.payload ++ [f.crc.extractLsb' 8 8, f.crc.extractLsb' 0 8]) (f.payload.length + 1)
      = f.crc.extractLsb' 0 8 := by simp [byteAt]
  rw [Frame.bytes_drop, parseFrame, hlen, if_pos ⟨h, by simp⟩, hhigh, hlow, crc_bytes, List.take_left]

/-- Settles O13: the length byte says where the payload ends, and the CRC is no part of the bytes it is computed over. -/
theorem frameBytesParseBack : Obligations.FrameBytesParseBack :=
  ⟨fun _ h => ⟨rfl, parseFrame_bytes h⟩, fun _ _ _ _ _ => decide_eq_true rfl⟩

/-! ## The hunt (R123) -/

/-- No sync pair stands in these bytes. -/
def NoPair (bytes : List Byte) : Prop := ∀ a b, bytes ≠ a ++ Config.sync0 :: Config.sync1 :: b

theorem NoPair.tail {b : Byte} {bytes : List Byte} (h : NoPair (b :: bytes)) : NoPair bytes :=
  fun x y he => h (b :: x) y (by rw [he, List.cons_append])

theorem NoPair.head {b : Byte} {bytes : List Byte} (h : NoPair (b :: bytes)) :
    ¬(b = Config.sync0 ∧ bytes.head? = some Config.sync1) := by
  rintro ⟨rfl, hhead⟩
  obtain ⟨rest, rfl⟩ := List.head?_eq_some_iff.mp hhead
  exact h [] rest rfl

theorem sync_ne : Config.sync1 ≠ Config.sync0 := by decide

/-- A held candidate is a byte 0xC5 before the bytes that arrive. -/
theorem hunt_candidate (candidate skipped : Bool) (bytes : List Byte) :
    hunt candidate skipped bytes = hunt false skipped ((if candidate then [Config.sync0] else []) ++ bytes) := by
  cases candidate with
  | false => rfl
  | true => simp [hunt]

/-- A byte that begins no pair, and is not a last 0xC5, is skipped. -/
theorem hunt_skipped {b : Byte} {bytes : List Byte} (h : ¬(b = Config.sync0 ∧ bytes.head? = some Config.sync1))
    (hlast : b = Config.sync0 → bytes ≠ []) (skipped : Bool) : hunt false skipped (b :: bytes) = hunt false true bytes := by
  by_cases hb : b = Config.sync0
  · subst hb
    cases bytes with
    | nil => exact absurd rfl (hlast rfl)
    | cons c rest =>
      have hc : c ≠ Config.sync1 := fun hc => h ⟨rfl, by rw [hc]; rfl⟩
      by_cases hc0 : c = Config.sync0
      · simp [hunt, hc0, sync_ne.symm]
      · simp [hunt, hc, hc0]
  · simp [hunt, hb]

/-- The first sync pair ends the hunt; what stood before it was skipped. -/
theorem hunt_noise_pair {noise : List Byte} (h : NoPair (noise ++ [Config.sync0])) (skipped : Bool) :
    hunt false skipped (noise ++ [Config.sync0, Config.sync1]) = .found (skipped || decide (noise ≠ [])) [] := by
  induction noise generalizing skipped with
  | nil => simp
  | cons b noise ih =>
    have hhead : ¬(b = Config.sync0 ∧ (noise ++ [Config.sync0, Config.sync1]).head? = some Config.sync1) := by
      have := h.head
      cases noise with
      | nil => exact fun hb => sync_ne (Option.some.inj hb.2).symm
      | cons c rest => exact this
    rw [List.cons_append, hunt_skipped hhead (fun _ => by simp), ih h.tail]
    simp

/-- Bytes without a pair that end in 0xC5 leave it as the candidate. -/
theorem hunt_noise_candidate {noise : List Byte} (h : NoPair (noise ++ [Config.sync0])) (skipped : Bool) :
    hunt false skipped (noise ++ [Config.sync0]) = .still true (skipped || decide (noise ≠ [])) := by
  induction noise generalizing skipped with
  | nil => simp [hunt]
  | cons b noise ih =>
    have hhead : ¬(b = Config.sync0 ∧ (noise ++ [Config.sync0]).head? = some Config.sync1) := h.head
    rw [List.cons_append, hunt_skipped hhead (fun _ => by simp), ih h.tail]
    simp

/-- Bytes without a pair that do not end in 0xC5 leave no candidate. -/
theorem hunt_noise {noise : List Byte} (h : NoPair noise) (hlast : ∀ before, noise ≠ before ++ [Config.sync0])
    (skipped : Bool) : hunt false skipped noise = .still false (skipped || decide (noise ≠ [])) := by
  induction noise generalizing skipped with
  | nil => simp [hunt]
  | cons b noise ih =>
    have hb : b = Config.sync0 → noise ≠ [] := by
      rintro rfl rfl
      exact hlast [] rfl
    have htail (before : List Byte) : noise ≠ before ++ [Config.sync0] :=
      fun he => hlast (b :: before) (by rw [he, List.cons_append])
    rw [hunt_skipped h.head hb, ih h.tail htail]
    simp

section
variable {s : State} {p : Port} {candidate skipped : Bool} {bytes : List Byte}

theorem execSyncPairFound_of_found {slipped : Bool} (hrx : s.rx p = .hunting candidate skipped)
    (h : hunt candidate skipped bytes = .found slipped []) :
    execSyncPairFound p bytes s = .next ((s.setRx p (.collecting [])).countSlip p slipped) := by
  simp only [execSyncPairFound, hrx, h, HuntEnd.receiver?, HuntEnd.slipped]

theorem execSyncPairFound_of_still {candidate' skipped' : Bool} (hrx : s.rx p = .hunting candidate skipped)
    (h : hunt candidate skipped bytes = .still candidate' skipped') :
    execSyncPairFound p bytes s = .next (s.setRx p (.hunting candidate' skipped')) := by
  simp only [execSyncPairFound, hrx, h, HuntEnd.receiver?, HuntEnd.slipped, State.countSlip]
  rfl

end

/-! ## Oversize headers (R124) -/

theorem execLengthError_of_oversize {s : State} {p : Port} {got bytes header : List Byte} (hrx : s.rx p = .collecting got)
    (hbytes : got ++ bytes = header) (hsize : oversizeHeader header = true) :
    execLengthError p bytes s = .next (((s.modPort p PortCounters.gainLengthErrors).setRx p (huntAgain header)).countSlip p
      (hunt false false header).slipped) := by
  simp only [execLengthError, hrx, Receiver.collected, hbytes, hsize, if_true]

/-- A length above 200 is neither byte of a sync pair. -/
theorem ne_sync_of_oversize {l : Byte} (h : 200 < l.toNat) : l ≠ Config.sync0 ∧ l ≠ Config.sync1 := by
  constructor <;> rintro rfl <;> revert h <;> decide

theorem hunt_header_plain {k a q l : Byte} (hl : 200 < l.toNat) (hka : ¬(k = Config.sync0 ∧ a = Config.sync1))
    (haq : ¬(a = Config.sync0 ∧ q = Config.sync1)) : hunt false false [k, a, q, l] = .still false true := by
  obtain ⟨hl0, hl1⟩ := ne_sync_of_oversize hl
  rw [hunt_skipped (by simpa using hka) (by simp), hunt_skipped (by simpa using haq) (by simp),
    hunt_skipped (by simp [hl1]) (by simp), hunt_skipped (by simp) (fun h => absurd h hl0)]
  rfl

theorem hunt_header_second {k a q l : Byte} (ha : a = Config.sync0) (hq : q = Config.sync1) :
    hunt false false [k, a, q, l] = .found true [l] := by
  rw [ha, hunt_skipped (by simp [sync_ne.symm]) (by simp), hq, hunt_pair]

/-- Settles O14: a candidate is a byte 0xC5 that came before, so every hunt is one over the stream. -/
theorem huntEndsAtTheSyncPair : Obligations.HuntEndsAtTheSyncPair := by
  refine ⟨fun s p candidate skipped bytes stream hrx hstream => ?_, fun s p got bytes k a q l hrx hheader hl => ?_⟩
  · have hhunt : hunt candidate skipped bytes = hunt false skipped stream := hstream ▸ hunt_candidate candidate skipped bytes
    refine ⟨fun noise hnoise hpair => ?_, fun hpair => ⟨fun noise hnoise => ?_, fun hlast => ?_⟩⟩
    · refine (execSyncPairFound_of_found hrx (hhunt.trans (hnoise ▸ hunt_noise_pair hpair skipped))).trans ?_
      simp [State.countSlip]
    · exact execSyncPairFound_of_still hrx (hhunt.trans (hnoise ▸ hunt_noise_candidate (hnoise ▸ hpair) skipped))
    · exact execSyncPairFound_of_still hrx (hhunt.trans (hunt_noise hpair hlast skipped))
  · have hsize : oversizeHeader [k, a, q, l] = true := decide_eq_true hl
    have hexec := execLengthError_of_oversize hrx hheader hsize
    refine ⟨fun hka haq => hexec.trans ?_, fun hk ha => hexec.trans ?_, fun ha hq => hexec.trans ?_⟩
    · rw [huntAgain, hunt_header_plain hl hka haq]
      rfl
    · subst hk ha
      rfl
    · rw [huntAgain, hunt_header_second ha hq]
      rfl

/-! ## Whole frames (R125) -/

section
variable {s : State} {p : Port} {f : Frame} {got bytes : List Byte}

/-- The check of a frame whose last bytes arrive, whatever was collected before. -/
theorem execFrameCheck_of_bytes (hrx : s.rx p = .collecting got) (hbytes : got ++ bytes = f.bytes.drop 2)
    (hlen : f.payload.length ≤ 200) :
    execFrameCheck p bytes s = .next ((s.setRx p (.hunting false false)).checkFrame p f) := by
  have hparse : ((s.rx p).collected bytes).bind parseFrame = some f := by
    rw [hrx, Receiver.collected, hbytes]
    exact parseFrame_bytes hlen
  simp only [execFrameCheck, hparse]

theorem State.checkFrame_of_badCrc (h : f.crcOk = false) : s.checkFrame p f = s.modPort p PortCounters.gainCrcErrors := by
  simp [State.checkFrame, h]

theorem State.checkFrame_of_badSize (h : f.crcOk = true) (hsize : s.sizeOk p f = false) :
    s.checkFrame p f = s.modPort p PortCounters.gainLengthErrors := by
  simp [State.checkFrame, h, hsize]

theorem State.checkFrame_of_good (h : f.crcOk = true) (hsize : s.sizeOk p f = true) :
    s.checkFrame p f = (s.modPort p PortCounters.gainAccepted).accept p f := by
  simp [State.checkFrame, h, hsize]

theorem State.isForMe_setRx (r : Receiver) : (s.setRx p r).isForMe f = s.isForMe f := by
  simp only [State.isForMe, State.address_setRx]

/-- The size check: a sensor kind at its size, and at the controller port a MANAGE frame for this engine with a tag. -/
theorem State.sizeOk_iff : s.sizeOk p f = true ↔ (∀ n, exactSize f.kind = some n → f.payload.length = n)
    ∧ ¬(p = .controller ∧ f.kind = 0x40 ∧ f.address = s.address ∧ f.payload.length < 2) := by
  have hme : (f.kind = 0x40 ∧ f.address = s.address) ↔ s.isForMe f = true := decide_eq_true_iff.symm
  rw [← and_assoc (a := f.kind = 0x40), hme, State.sizeOk]
  cases exactSize f.kind <;> by_cases hp : p = .controller <;> by_cases h : s.isForMe f = true <;> simp [hp, h]

theorem State.sizeOk_setRx (r : Receiver) : (s.setRx p r).sizeOk p f = s.sizeOk p f := by
  simp only [State.sizeOk, State.isForMe_setRx]

end

/-- Settles O15: the checks in their order, each with its counter. -/
theorem badFramesAreOnlyCounted : Obligations.BadFramesAreOnlyCounted := by
  intro s p f got bytes hrx hbytes hlen
  have hexec := execFrameCheck_of_bytes hrx hbytes hlen
  have hsize (hbad : s.sizeOk p f ≠ true) : (s.setRx p (.hunting false false)).sizeOk p f = false := by
    rw [State.sizeOk_setRx]; exact Bool.eq_false_iff.mpr hbad
  refine ⟨fun hcrc => ?_, fun n hcrc hn hne => ?_, fun hcrc hp hkind haddress hshort => ?_⟩
  · exact hexec.trans (congrArg _ (State.checkFrame_of_badCrc hcrc))
  · exact hexec.trans (congrArg _ (State.checkFrame_of_badSize hcrc
      (hsize fun hok => hne ((State.sizeOk_iff.mp hok).1 n hn))))
  · exact hexec.trans (congrArg _ (State.checkFrame_of_badSize hcrc
      (hsize fun hok => (State.sizeOk_iff.mp hok).2 ⟨hp, hkind, haddress, hshort⟩)))

/-! ## Accepted frames (R126 to R128) -/

theorem State.flushHeld_of_canFlush {s : State} (h : s.canFlush = false) : s.flushHeld = s := by
  simp [State.flushHeld, h]

theorem isSensorKind_iff {kind : Byte} : isSensorKind kind = true ↔ exactSize kind ≠ none := by
  simp only [isSensorKind, exactSize, decide_eq_true_eq]
  split
  · simp [*]
  · split
    · simp [*]
    · split <;> simp [*]

/-- Settles O16: what each port does with a frame that passes the checks. -/
theorem acceptedFramesGoWhereTheirPortSendsThem : Obligations.AcceptedFramesGoWhereTheirPortSendsThem := by
  refine ⟨fun s f got bytes hrx hbytes hlen hcrc hkind hflush => ?_, fun s f got bytes hrx hbytes hlen hcrc hkind => ?_,
    fun s f got bytes hrx hbytes hlen hcrc hexact hmanage => ?_⟩
  · have hsize : (s.setRx .sensor (.hunting false false)).sizeOk .sensor f = true := by
      rw [State.sizeOk_setRx]
      exact State.sizeOk_iff.mpr ⟨fun n hn => (by rw [hkind] at hn; cases hn), fun h => Port.noConfusion h.1⟩
    have hsensor : isSensorKind f.kind = false := Bool.eq_false_iff.mpr fun h => isSensorKind_iff.mp h hkind
    have hexec := (execFrameCheck_of_bytes (p := .sensor) hrx hbytes hlen).trans
      (congrArg Host.Outcome.next (State.checkFrame_of_good hcrc hsize))
    simp only [State.accept, hsensor] at hexec
    refine ⟨fun room => hexec.trans (congrArg _ ?_), fun full => hexec.trans (congrArg _ ?_)⟩
    · refine (State.flushHeld_of_canFlush ?_).trans ?_
      · simp only [State.forward, State.modPort, State.modCounters, State.setRx, Config.forwardCapacity, room, if_true]
        exact hflush
      · simp [State.forward, State.modPort, State.modCounters, State.setRx, Config.forwardCapacity, room]
    · have hfull : ¬s.forwardFifo.length < 64 := Nat.not_lt.mpr full
      refine (State.flushHeld_of_canFlush ?_).trans ?_
      · simp only [State.forward, State.modPort, State.modCounters, State.setRx, Config.forwardCapacity, hfull, if_false]
        exact hflush
      · simp [State.forward, State.modPort, State.modCounters, State.setRx, Config.forwardCapacity, hfull]
  · have hsize : (s.setRx .sensor (.hunting false false)).sizeOk .sensor f = true := by
      rw [State.sizeOk_setRx]
      exact State.sizeOk_iff.mpr ⟨fun n hn => Option.some.inj (hkind.symm.trans hn), fun h => Port.noConfusion h.1⟩
    have hsensor : isSensorKind f.kind = true := isSensorKind_iff.mpr (by rw [hkind]; nofun)
    have hexec := (execFrameCheck_of_bytes (p := .sensor) hrx hbytes hlen).trans
      (congrArg Host.Outcome.next (State.checkFrame_of_good hcrc hsize))
    simp only [State.accept, hsensor, if_true] at hexec
    exact hexec
  · have hsize : (s.setRx .controller (.hunting false false)).sizeOk .controller f = true := by
      rw [State.sizeOk_setRx]
      exact State.sizeOk_iff.mpr ⟨hexact, fun h => hmanage h.2⟩
    exact (execFrameCheck_of_bytes (p := .controller) hrx hbytes hlen).trans
      (congrArg Host.Outcome.next (State.checkFrame_of_good hcrc hsize))

end Sys2Proof.Machine

/-!
Management commands that only answer, or write one thing: the refusals of R166, the readings of R169 to R171, SET MODE and
CLEAR COUNTERS (R62, R171), capture commands (R146 to R148), and a refused ACTIVATE (R157, R159, R164).
-/

namespace Sys2Proof.Machine

/-! ## A command that leaves the proof record as it was -/

section
variable {s t : State} {code tag i : Byte} {params data : List Byte} {body : State → Answer} {status : Status}

/-- A command with room, whose effect leaves the proof record as it was, adds its REPLY to its effect (R165). -/
theorem answered (h : s.CanTake) (hb : body s = ⟨t, status, data, []⟩) (hp : t.proof = s.proof) :
    (.next (s.takeCommand code tag body) : Host.Outcome State Fault Refusal) = .next (t.answer code tag status data) :=
  congrArg _ (State.takeCommand_of_answer h.1 hb (hp ▸ h.2))

/-- A refused command only adds its REPLY (R166). -/
theorem refused (h : s.CanTake) (hb : body s = refuse s status) :
    (.next (s.takeCommand code tag body) : Host.Outcome State Fault Refusal) = .next (s.answer code tag status []) :=
  congrArg _ (State.takeCommand_of_refusal h hb)

/-! ## The shared checks, refused (R166) -/

theorem onNode_of_length (k : Nat → NodeRec → NodeRun → Answer) (h : s.engine = .running) (hlen : params.length ≠ 1) :
    onNode s params k = refuse s .badParam := by
  refine (whenRunning_of_running h _).trans ?_
  match params, hlen with
  | [], _ => rfl
  | [_], hlen => exact absurd rfl hlen
  | _ :: _ :: _, _ => rfl

theorem onNode_of_range (k : Nat → NodeRec → NodeRun → Answer) (h : s.engine = .running) (hi : 48 ≤ i.toNat) :
    onNode s [i] k = refuse s .badParam := by
  rw [onNode, whenRunning_of_running h]
  exact if_neg (Nat.not_lt.mpr hi)

theorem onNode_of_absent (k : Nat → NodeRec → NodeRun → Answer) (h : s.engine = .running) (hi : i.toNat < 48)
    (hr : s.active.node? i.toNat = none) : onNode s [i] k = refuse s .wrongState := by
  rw [onNode, whenRunning_of_running h]
  simp [Config.nodeCount, hi, hr]

theorem onZone_of_length (k : Nat → NodeRec → Zone → Answer) (h : s.engine = .running) (hlen : params.length ≠ 1) :
    onZone s params k = refuse s .badParam := by
  refine (whenRunning_of_running h _).trans ?_
  match params, hlen with
  | [], _ => rfl
  | [_], hlen => exact absurd rfl hlen
  | _ :: _ :: _, _ => rfl

theorem onZone_of_range (k : Nat → NodeRec → Zone → Answer) (h : s.engine = .running) (hi : 48 ≤ i.toNat) :
    onZone s [i] k = refuse s .badParam := by
  rw [onZone, whenRunning_of_running h]
  exact if_neg (Nat.not_lt.mpr hi)

theorem onZone_of_absent (k : Nat → NodeRec → Zone → Answer) (h : s.engine = .running) (hi : i.toNat < 48)
    (hr : s.active.position? i.toNat = none) : onZone s [i] k = refuse s .wrongState := by
  rw [onZone, whenRunning_of_running h]
  simp [Config.nodeCount, hi, State.zoneAt, hr]

/-! ## Parameter lists of a wrong size (R166) -/

theorem modeParams_of_length (h : params.length ≠ 2) : modeParams params = none := by
  unfold modeParams
  split
  · exact absurd rfl h
  · rfl

theorem readCaptureParams_of_length (h : params.length ≠ 4) : readCaptureParams params = none := by
  unfold readCaptureParams
  split
  · exact absurd rfl h
  · rfl

theorem freeCaptureParams_of_length (h : params.length ≠ 2) : freeCaptureParams params = none := by
  unfold freeCaptureParams
  split
  · exact absurd rfl h
  · rfl

theorem lineParams_of_length (h : params.length ≠ 3) : lineParams params = none := by
  unfold lineParams
  split
  · exact absurd rfl h
  · rfl

theorem forceParam_of_length (h : params.length ≠ 1) : forceParam params = none := by
  unfold forceParam
  split
  · exact absurd rfl h
  · rfl

theorem numbered_bind_of_length {α : Type} {n k : Nat} {parse : List Byte → Option α}
    (hparse : ∀ {bytes : List Byte} {x : α}, parse bytes = some x → bytes.length = k) (h : params.length ≠ k + 1) :
    ((numbered n params).bind fun ib => (parse ib.2).map fun p => (ib.1, p)) = none := by
  cases params with
  | nil => rfl
  | cons i bytes =>
    refine numbered_bind_eq_none (.inr (Option.eq_none_iff_forall_ne_some.mpr fun x hx => h ?_))
    rw [List.length_cons, hparse hx]

end

/-! ## The order of the checks (R166) -/

/-- The parameter sizes of the commands that need tables (R121). -/
def sizesWithTables : List (Byte × Nat) := [(0x03, 1), (0x04, 1), (0x05, 1), (0x08, 1), (0x21, 1), (0x22, 1), (0x23, 1),
  (0x24, 1), (0x30, 1), (0x38, 2)]

/-- The parameter sizes, above 0, of the commands that are taken in either engine state (R121). -/
def sizesWithoutTables : List (Byte × Nat) := [(0x10, 18), (0x11, 14), (0x12, 32), (0x13, 27), (0x15, 3), (0x20, 2),
  (0x31, 4), (0x32, 2), (0x39, 3), (0x3F, 1)]

/-- The codes of the commands without parameters (R121). -/
def codesWithoutParams : List Byte := [0x01, 0x02, 0x06, 0x07, 0x14, 0x16, 0x3A]

theorem sizes_grouped : ∀ p ∈ ([(0x01, 0), (0x02, 0), (0x03, 1), (0x04, 1), (0x05, 1), (0x06, 0), (0x07, 0), (0x08, 1),
      (0x10, 18), (0x11, 14), (0x12, 32), (0x13, 27), (0x14, 0), (0x15, 3), (0x16, 0), (0x20, 2), (0x21, 1), (0x22, 1),
      (0x23, 1), (0x24, 1), (0x30, 1), (0x31, 4), (0x32, 2), (0x38, 2), (0x39, 3), (0x3A, 0), (0x3F, 1)]
        : List (Byte × Nat)), p ∈ sizesWithTables ∨ p ∈ sizesWithoutTables ∨ p.2 = 0 ∧ p.1 ∈ codesWithoutParams := by
  decide

theorem code_of_sizesWithTables : ∀ p ∈ sizesWithTables,
    p.1 ∈ ([0x03, 0x04, 0x05, 0x08, 0x21, 0x22, 0x23, 0x24, 0x30, 0x38] : List Byte) := by
  decide

section
variable {s : State} {code tag : Byte} {params : List Byte}

theorem exec_badCommand_of_unlisted (htake : s.CanTake) (h : code ∉ commandCodes) :
    exec (.badCommand code tag params) s = .next (s.answer code tag .badCommand []) := by
  refine (congrArg Host.Outcome.next (if_neg h)).trans ?_
  exact refused htake rfl

/-- A command that needs tables is refused without them, whatever its parameters (R166). -/
theorem exec_of_unconfigured (htake : s.CanTake) (h : s.engine = .unconfigured)
    (hcode : code ∈ ([0x03, 0x04, 0x05, 0x08, 0x21, 0x22, 0x23, 0x24, 0x30, 0x38] : List Byte)) :
    exec (commandOf code tag params) s = .next (s.answer code tag .notConfigured []) := by
  simp only [List.mem_cons, List.not_mem_nil, or_false] at hcode
  obtain rfl | rfl | rfl | rfl | rfl | rfl | rfl | rfl | rfl | rfl := hcode <;>
    exact refused htake (whenRunning_of_unconfigured h _)

/-- A command that needs tables, at a wrong size (R166). -/
theorem exec_of_length_running (htake : s.CanTake) (h : s.engine = .running) {n : Nat}
    (hcode : (code, n) ∈ sizesWithTables) (hlen : params.length ≠ n) :
    exec (commandOf code tag params) s = .next (s.answer code tag .badParam []) := by
  simp only [sizesWithTables, List.mem_cons, List.not_mem_nil, or_false, Prod.mk.injEq] at hcode
  obtain ⟨rfl, rfl⟩ | ⟨rfl, rfl⟩ | ⟨rfl, rfl⟩ | ⟨rfl, rfl⟩ | ⟨rfl, rfl⟩ | ⟨rfl, rfl⟩ | ⟨rfl, rfl⟩ | ⟨rfl, rfl⟩ | ⟨rfl, rfl⟩
    | ⟨rfl, rfl⟩ := hcode
  · exact refused htake (onNode_of_length _ h hlen)
  · exact refused htake (onZone_of_length _ h hlen)
  · exact refused htake (onNode_of_length _ h hlen)
  · exact refused htake (onNode_of_length _ h hlen)
  · exact refused htake (onZone_of_length _ h hlen)
  · exact refused htake (onZone_of_length _ h hlen)
  · exact refused htake (onNode_of_length _ h hlen)
  · exact refused htake (onNode_of_length _ h hlen)
  · refine refused htake ((whenRunning_of_running h _).trans ?_)
    match params, hlen with
    | [], _ => rfl
    | [_], hlen => exact absurd rfl hlen
    | _ :: _ :: _, _ => rfl
  · refine refused htake ((whenRunning_of_running h _).trans ?_)
    match params, hlen with
    | [], _ => rfl
    | [_], _ => rfl
    | [_, _], hlen => exact absurd rfl hlen
    | _ :: _ :: _ :: _, _ => rfl

/-- A command without parameters, given some (R166). -/
theorem exec_of_params (htake : s.CanTake)
    (hcode : code ∈ codesWithoutParams) (hlen : params.length ≠ 0) :
    exec (commandOf code tag params) s = .next (s.answer code tag .badParam []) := by
  have hparams : params ≠ [] := fun h => hlen (h ▸ rfl)
  simp only [codesWithoutParams, List.mem_cons, List.not_mem_nil, or_false] at hcode
  obtain rfl | rfl | rfl | rfl | rfl | rfl | rfl := hcode <;> exact refused htake (noParams_of_ne hparams _)

/-- A command taken in either engine state, at a wrong size (R166). -/
theorem exec_of_length (htake : s.CanTake) {n : Nat}
    (hcode : (code, n) ∈ sizesWithoutTables) (hlen : params.length ≠ n) :
    exec (commandOf code tag params) s = .next (s.answer code tag .badParam []) := by
  simp only [sizesWithoutTables, List.mem_cons, List.not_mem_nil, or_false, Prod.mk.injEq] at hcode
  obtain ⟨rfl, rfl⟩ | ⟨rfl, rfl⟩ | ⟨rfl, rfl⟩ | ⟨rfl, rfl⟩ | ⟨rfl, rfl⟩ | ⟨rfl, rfl⟩ | ⟨rfl, rfl⟩ | ⟨rfl, rfl⟩ | ⟨rfl, rfl⟩
    | ⟨rfl, rfl⟩ := hcode
  · have hnone : parseHeader params = none :=
      Option.eq_none_iff_forall_ne_some.mpr fun _ hh => hlen (parseHeader_some hh).1
    exact refused htake (by simp only [hnone])
  · exact refused htake (by simp only [numbered_bind_of_length (fun hp => (parseNode_some hp).1) hlen])
  · exact refused htake (by simp only [numbered_bind_of_length (fun hp => (parseZoneProfile_some hp).1) hlen])
  · exact refused htake (by simp only [numbered_bind_of_length (fun hp => (parseChannelProfile_some hp).1) hlen])
  · refine refused htake ?_
    match params, hlen with
    | [], _ => rfl
    | [_], _ => rfl
    | [_, _], _ => rfl
    | [_, _, _], hlen => exact absurd rfl hlen
    | _ :: _ :: _ :: _ :: _, _ => rfl
  · exact refused htake (by simp only [modeParams_of_length hlen])
  · exact refused htake (by simp only [readCaptureParams_of_length hlen])
  · exact refused htake (by simp only [freeCaptureParams_of_length hlen])
  · exact refused htake (by simp only [lineParams_of_length hlen])
  · exact refused htake (by simp only [forceParam_of_length hlen])

end

/-- Settles O41: the checks of R166 in their order, by the groups of commands that share them. -/
theorem refusalsFollowTheOrderOfChecks : Obligations.RefusalsFollowTheOrderOfChecks := by
  intro s code tag params needsTables htake hneeds
  refine ⟨exec_badCommand_of_unlisted htake, fun hn hunconf => exec_of_unconfigured htake hunconf (hneeds.mp hn),
    fun n hcode hengine hlen => ?_, fun i hrun hparams => ?_⟩
  · have hgroup := sizes_grouped _ hcode
    obtain hwith | hwithout | ⟨rfl, hnone⟩ := hgroup
    · have hrun := hengine.resolve_right fun hnot => hnot (hneeds.mpr (code_of_sizesWithTables _ hwith))
      exact exec_of_length_running htake hrun hwith hlen
    · exact exec_of_length htake hwithout hlen
    · exact exec_of_params htake hnone hlen
  · subst hparams
    refine ⟨fun hcode hi => ?_, fun hcode hi hnone => ?_, fun hcode hi hnone => ?_⟩
    · simp only [List.mem_cons, List.not_mem_nil, or_false] at hcode
      obtain rfl | rfl | rfl | rfl | rfl | rfl | rfl | rfl := hcode
      · exact refused htake (onNode_of_range _ hrun hi)
      · exact refused htake (onZone_of_range _ hrun hi)
      · exact refused htake (onNode_of_range _ hrun hi)
      · exact refused htake (onNode_of_range _ hrun hi)
      · exact refused htake (onZone_of_range _ hrun hi)
      · exact refused htake (onZone_of_range _ hrun hi)
      · exact refused htake (onNode_of_range _ hrun hi)
      · exact refused htake (onNode_of_range _ hrun hi)
    · simp only [List.mem_cons, List.not_mem_nil, or_false] at hcode
      obtain rfl | rfl | rfl | rfl | rfl := hcode <;> exact refused htake (onNode_of_absent _ hrun hi hnone)
    · simp only [List.mem_cons, List.not_mem_nil, or_false] at hcode
      obtain rfl | rfl | rfl := hcode <;> exact refused htake (onZone_of_absent _ hrun hi hnone)

end Sys2Proof.Machine

/-!
What the management unit answers or writes at once: a refused ACTIVATE (R157, R159, R164), SET MODE and CLEAR COUNTERS
(R62, R171), the readings (R146, R169 to R171), and CAPTURE NOW and FREE CAPTURE (R147, R148).
-/

namespace Sys2Proof.Machine

section
variable {s : State} {tag : Byte}

/-! ## A refused ACTIVATE -/

theorem execActivate_of_failure (htake : s.CanTake) {i : Nat} {reason : Byte} (h : s.staged.failure = some (i, reason)) :
    execActivate tag [] s = .next (s.answer 0x16 tag .badTable [byteOf i, reason]) :=
  answered (t := s) htake (by simp only [noParams_nil, h]) rfl

theorem execActivate_of_dropped (htake : s.CanTake) (h : s.staged.failure = none) {i : Nat} (hi : s.droppedTripped = some i) :
    execActivate tag [] s = .next (s.answer 0x16 tag .refusedTripped [byteOf i, 12]) :=
  answered (t := s) htake (by simp only [noParams_nil, h, hi]) rfl

end

/-- Settles O9: each refusal, the validation's by its equivalence with the first failure. -/
theorem refusedActivateOnlyAnswers : Obligations.RefusedActivateOnlyAnswers := by
  intro s tag htake
  refine ⟨fun params h => refused htake (noParams_of_ne h _), fun i reason h => execActivate_of_failure htake h,
    fun i reason hin h => ?_, fun i h hi => execActivate_of_dropped htake h hi⟩
  have hlen : s.staged.zoneProfiles.length = Config.zoneProfileCount := by
    simp only [Tables.inRange, Bool.and_eq_true, decide_eq_true_eq] at hin
    obtain ⟨⟨⟨⟨⟨-, -⟩, hlen⟩, -⟩, -⟩, -⟩ := hin
    exact hlen
  exact execActivate_of_failure htake ((Tables.failure_eq_some hlen).mpr h)

/-! ## SET MODE and CLEAR COUNTERS -/

/-- Settles O45: a mode byte in range is written, any other refused. -/
theorem setModeAndClearCountersWriteOneThing : Obligations.SetModeAndClearCountersWriteOneThing := by
  intro s tag htake
  refine ⟨answered htake rfl rfl, fun f b m hb => ⟨fun mode hmode => ?_, fun hm => ?_, fun other hother => ?_⟩⟩
  · have hparams : modeParams [b, m] = some (f, mode) := by
      obtain ⟨rfl, rfl⟩ | ⟨rfl, rfl⟩ | ⟨rfl, rfl⟩ := hmode <;> simp [modeParams, finOf_of_eq hb, modeOf]
    exact answered htake (by simp only [hparams]; rfl) rfl
  · have hmode : modeOf m = none := by
      simp only [modeOf]
      rw [if_neg, if_neg, if_neg] <;> rintro rfl <;> revert hm <;> decide
    exact refused htake (by simp only [modeParams, finOf_of_eq hb, hmode, Option.bind_some, Option.map_none])
  · exact refused htake (by simp only [modeParams, finOf_of_le hother, Option.bind_none])

/-! ## CAPTURE NOW and FREE CAPTURE -/

section
variable {s : State} {tag b : Byte} {k : Fin 4}

/-- Both values of a flag byte. -/
theorem flagOf_of_le {a : Byte} (h : a.toNat ≤ 1) : flagOf a = some (decide (a = 1)) := by
  obtain rfl | rfl : a = 0 ∨ a = 1 := by
    obtain h | h := Nat.le_one_iff_eq_zero_or_eq_one.mp h
    · exact .inl (BitVec.eq_of_toNat_eq h)
    · exact .inr (BitVec.eq_of_toNat_eq h)
  all_goals rfl

theorem flagOf_of_lt {a : Byte} (h : 1 < a.toNat) : flagOf a = none := by
  simp only [flagOf]
  rw [if_neg, if_neg] <;> rintro rfl <;> revert h <;> decide

theorem freeCaptureParams_of_flag (hb : b.toNat = k.val) {abort : Byte} (h : abort.toNat ≤ 1) :
    freeCaptureParams [b, abort] = some (k, decide (abort = 1)) := by
  simp only [freeCaptureParams, finOf_of_eq hb, flagOf_of_le h, Option.bind_some, Option.map_some]

end

/-- Settles O49: the slot's state and the abort flag decide what FREE CAPTURE does. -/
theorem captureCommandsTriggerAndFree : Obligations.CaptureCommandsTriggerAndFree := by
  intro s tag b k htake hb
  refine ⟨fun hrun hused => ?_, fun hrun hunused => ?_, fun abort hflag => ⟨fun hstate => ?_, fun hstate => ?_⟩,
    fun abort hflag => ?_, fun other abort hother => ⟨?_, fun hrun => ?_⟩⟩
  · refine answered htake ?_ ?_
    · simp only [whenRunning_of_running hrun, finOf_of_eq hb, hused, if_true]
      rfl
    · exact (congrArg State.proof (State.captureTrigger_frame s k .captureNow none)).trans rfl
  · exact refused htake (by simp [whenRunning_of_running hrun, finOf_of_eq hb, hunused])
  · have hfree : (s.slots.get k).state.freeable (decide (abort = 1)) = true := by
      obtain h | ⟨h, rfl⟩ := hstate <;> simp [SlotState.freeable, h]
    exact answered htake (by simp only [freeCaptureParams_of_flag hb hflag, hfree, if_true]; rfl) rfl
  · have hfree : (s.slots.get k).state.freeable (decide (abort = 1)) = false := by
      obtain h | ⟨h, rfl⟩ := hstate <;> simp [SlotState.freeable, h]
    exact refused htake (by simp only [freeCaptureParams_of_flag hb hflag, hfree, Bool.false_eq_true, if_false])
  · exact refused htake (by simp [freeCaptureParams, finOf_of_eq hb, flagOf_of_lt hflag])
  · exact refused htake (by simp [freeCaptureParams, finOf_of_le hother])
  · exact refused htake (by simp [whenRunning_of_running hrun, finOf_of_le hother])

/-! ## Readings of the engine -/

/-- The fields of a row of four-byte fields, each at four times its place (R121). -/
theorem u32At_flatMap_be32 {ns : List Nat} {k n : Nat} (h : ns[k]? = some n) (hn : n ≤ 4294967295) :
    u32At (ns.flatMap be32) (4 * k) = n := by
  induction ns generalizing k with
  | nil => cases h
  | cons m ns ih =>
    cases k with
    | zero =>
      cases h
      exact u32_be32 (by omega)
    | succ k => exact ih h

theorem flagByte_decide {p : Prop} [Decidable p] : flagByte (decide p) = if p then 1 else 0 := by
  by_cases h : p <;> simp [flagByte, h]

/-- The part of READ STATUS for the feeders, field by field (R82, R105). -/
theorem State.status_feeder (s : State) (f : Fin 4) : byteAt s.status (2 + 8 * f) = (s.feeders.get f).requested.code
    ∧ byteAt s.status (3 + 8 * f) = (s.feeders.get f).effective.code
    ∧ ∀ st : ZoneState, byteAt s.status (4 + 8 * f + st.code.toNat)
        = byteOf ((s.active.zonesOf f).countP fun z => (s.zone? z).any fun x => decide (x.run.state = st)) := by
  refine ⟨?_, ?_, fun st => ?_⟩
  · match f with
    | 0 | 1 | 2 | 3 => rfl
  · match f with
    | 0 | 1 | 2 | 3 => rfl
  · rw [List.countP_eq_length_filter]
    match f with
    | 0 | 1 | 2 | 3 => cases st <;> rfl

/-- The part of READ STATUS for the lines, field by field (R119). -/
theorem State.status_line (s : State) (l : Fin 4) : byteAt s.status (34 + 4 * l) = (s.active.header.policies.get l).code
    ∧ byteAt s.status (35 + 4 * l) = flagByte (s.demanded l) ∧ byteAt s.status (36 + 4 * l) = flagByte (s.pulseOn l)
    ∧ byteAt s.status (37 + 4 * l) = flagByte (s.lines.get l) := by
  match l with
  | 0 | 1 | 2 | 3 => exact ⟨rfl, rfl, rfl, rfl⟩

theorem State.status_slot (s : State) (i : Fin 4) : byteAt s.status (52 + i) = (s.slots.get i).state.code := by
  match i with
  | 0 | 1 | 2 | 3 => rfl

/-- Settles O42: the data of the three readings, field by field. -/
theorem engineReadingsOnlyAnswer : Obligations.EngineReadingsOnlyAnswer := by
  intro s tag htake
  refine ⟨answered htake rfl rfl, ⟨s.status, answered htake rfl rfl, rfl, ?_, ?_, s.status_feeder, fun l => ?_, rfl, ?_,
    s.status_slot, fun h => u16_be16 h⟩, ⟨_, answered htake rfl rfl, rfl, fun k n => u32At_flatMap_be32⟩⟩
  · show s.engine.code = _
    cases s.engine <;> rfl
  · show s.presence.code = _
    cases s.presence <;> rfl
  · obtain ⟨hpolicy, hdemanded, hpulse, hline⟩ := s.status_line l
    exact ⟨hpolicy, hdemanded, hpulse.trans flagByte_decide, hline⟩
  · show indexByte s.proof.target = _
    cases s.proof.target <;> rfl

/-! ## Readings of one target -/

/-- Settles O43: the record that each reading returns. -/
theorem targetReadingsOnlyAnswer : Obligations.TargetReadingsOnlyAnswer := by
  intro s tag i htake
  refine ⟨fun r n p hrun hi hr hn hp => ⟨answered htake ((onNode_of_some _ hrun hi hr hn).trans ?_) rfl,
    answered htake ((onNode_of_some _ hrun hi hr hn).trans ?_) rfl⟩,
    fun r x p hrun hi hr hx hp => answered htake ((onZone_of_some _ hrun hi hr hx).trans ?_) rfl,
    fun hi lo count hrange => refused htake ?_, fun k hi lo count x start window hk hcount hx hstart hwindow => ⟨?_, ?_⟩⟩
  · subst hp
    simp [nodeData, done, byteOf_toNat, Channel.encode, PerPhase.toList]
  · subst hp
    simp [done, byteOf_toNat, Health.toList]
  · subst hp
    simp [done, byteOf_toNat, ZoneRecord.encode, Evaluation.encode, PhaseEval.encode, Topology.encode, PerPhase.toList]
  · obtain h | h := hrange
    · simp [readCaptureParams, finOf_of_le h]
    · simp [readCaptureParams, Nat.not_lt.mpr (Nat.succ_le_of_lt h)]
  · simp [hwindow]
  · subst hx hstart hwindow
    have hparams : readCaptureParams [i, hi, lo, count] = some (k, 256 * hi.toNat + lo.toNat, count.toNat) := by
      simp [readCaptureParams, finOf_of_eq hk, Nat.lt_succ_of_le hcount, u16, Nat.mul_comm]
    have hindex : byteOf k = i := by rw [← hk, byteOf_toNat]
    have hfield : be16 (256 * hi.toNat + lo.toNat) = [hi, lo] := by
      rw [Nat.mul_comm]
      exact be16_u16 hi lo
    have hrecord : CaptureRecord.encode = fun c => [c.address, c.sequence] ++ be32 c.time.toNat ++ [c.flags]
        ++ [c.values.a, c.values.b, c.values.c].flatMap fun m => be16 m.i ++ be16 m.v ++ be16 m.h := rfl
    refine answered htake (t := s) ?_ rfl
    simp only [hparams, done, Slot.header, hindex, hfield, Slot.window]
    simp [hrecord]

end Sys2Proof.Machine

/-!
Presence, transmission and routing (R115, R128 to R132), and the expiries of single records (R37, R75, R88, R95).
-/

namespace Sys2Proof.Machine

/-! ## Presence (R132) -/

theorem State.samePresence_untouched (s : State) : Untouched s.SamePresence where
  replies _ _ h := { h with }
  counters _ _ h := { h with }
  flush _ h := { h with }

theorem forceParam_cases (params : List Byte) (s : State) : s.SamePresence
    (match forceParam params with
      | none => refuse s .badParam
      | some force => if !force && s.anyTripped then refuse s .refusedTripped
        else ⟨s.restart, .done, [], [startedNotice 2]⟩ : Answer).state := by
  split
  · exact ⟨rfl, rfl, rfl⟩
  · split
    · exact ⟨rfl, rfl, rfl⟩
    · exact .of_outside (t := s.clearRuntime) ⟨rfl, rfl, rfl⟩ s.restart_outside

/-- No MANAGE command moves presence, its deadline, or the presence updates that are due. -/
theorem exec_commandOf_samePresence {s t : State} {code tag : Byte} {params : List Byte}
    (h : exec (commandOf code tag params) s = .next t) : s.SamePresence t := by
  by_cases hcode : code = codeRestartEngine
  · subst hcode
    cases h
    exact s.samePresence_untouched.takeCommand ⟨rfl, rfl, rfl⟩ _ _ (forceParam_cases params s)
  · obtain ⟨body, hbody, hanswers⟩ := commandOf_answered hcode tag params (s := s)
    cases hbody.symm.trans h
    exact s.samePresence_untouched.takeCommand ⟨rfl, rfl, rfl⟩ _ _ hanswers.presence

/-- A MANAGE frame for this engine is taken as the command its code names (R128, R165). -/
theorem execControllerFrameRouting_of_command {s : State} {f : Frame} {rest : List Frame} {code tag : Byte}
    {params : List Byte} (hdue : s.awaitingRouting = f :: rest) (hkind : f.kind = kindManage) (haddress : f.address = s.address)
    (hpayload : f.payload = code :: tag :: params) :
    execControllerFrameRouting s = exec (commandOf code tag params) { s with awaitingRouting := rest } := by
  have hme : State.isForMe { s with awaitingRouting := rest } f = true := decide_eq_true ⟨hkind, haddress⟩
  simp only [execControllerFrameRouting, hdue, routeFrame, hme, if_true, hpayload]
  exact (exec_commandOf ..).symm

/-- Every other frame joins the sensor-port queue, or is dropped (R128, R129). -/
theorem execControllerFrameRouting_of_other {s : State} {f : Frame} {rest : List Frame} (hdue : s.awaitingRouting = f :: rest)
    (hother : f.kind ≠ kindManage ∨ f.address ≠ s.address) :
    execControllerFrameRouting s = .next (State.queueForSensor { s with awaitingRouting := rest } f) := by
  have hme : State.isForMe { s with awaitingRouting := rest } f = false :=
    decide_eq_false fun h => hother.elim (fun hk => hk h.1) (fun ha => ha h.2)
  simp only [execControllerFrameRouting, hdue, routeFrame, hme, Bool.false_eq_true, if_false]

theorem State.queueForSensor_samePresence (s : State) (f : Frame) : s.SamePresence (s.queueForSensor f) := by
  unfold State.queueForSensor
  split <;> exact ⟨rfl, rfl, rfl⟩

theorem execControllerFrameRouting_samePresence {s t : State} (h : execControllerFrameRouting s = .next t) :
    s.SamePresence t := by
  unfold execControllerFrameRouting at h
  split at h
  · cases h
    exact ⟨rfl, rfl, rfl⟩
  · rename_i f rest hdue
    unfold routeFrame at h
    split at h
    · split at h
      · exact { exec_commandOf_samePresence ((exec_commandOf ..).trans h) with }
      · cases h
        exact ⟨rfl, rfl, rfl⟩
    · cases h
      exact { State.queueForSensor_samePresence _ f with }

/-- Settles O39, by what the routing does with each kind of frame. -/
theorem routingTakesCommandsAndQueuesTheRest : Obligations.RoutingTakesCommandsAndQueuesTheRest := by
  intro s
  refine ⟨fun f rest hdue => ⟨fun code tag params hkind haddress hpayload => ?_, fun hother room => ?_, fun hother full => ?_⟩,
    fun hnone => ?_⟩
  · exact execControllerFrameRouting_of_command hdue hkind haddress hpayload
  · exact (execControllerFrameRouting_of_other hdue hother).trans (congrArg _ (if_pos room))
  · exact (execControllerFrameRouting_of_other hdue hother).trans (congrArg _ (if_neg (Nat.not_lt.mpr full)))
  · simp only [exec, execControllerFrameRouting, hnone]

section
variable {s : State} {limit : Nat} {rest : List Nat}

theorem execPresenceUpdate_of_due (h : s.awaitingPresence = limit :: rest) :
    execPresenceUpdate s = .next (State.signOfLife { s with awaitingPresence := rest } limit) := by
  simp only [execPresenceUpdate, h]

theorem State.signOfLife_of_present (h : s.presence = .present) (limit : Nat) :
    s.signOfLife limit = { s with presenceDeadline := some (after s.now limit) } := by
  simp [State.signOfLife, h]

theorem State.signOfLife_of_absent (h : s.presence = .absent) (limit : Nat) : s.signOfLife limit
    = State.recomputeLines { s with presenceDeadline := some (after s.now limit), presence := .present } := by
  simp [State.signOfLife, h]

end

/-- Settles O37: the update reads time, the due limit and presence, none of which a routing moves. -/
theorem presenceFollowsFramesAndSilence : Obligations.PresenceFollowsFramesAndSilence := by
  intro s
  refine ⟨fun limit rest t hdue ht => ⟨fun hp => ?_, fun hp => ⟨?_, State.recomputeLines_linesFollow _⟩⟩,
    fun limit rest t u v w hdue ht hu hv hw => ?_, fun hnone => ?_, fun t hdue ht => ⟨?_, State.recomputeLines_linesFollow _⟩,
    fun hdue => ?_⟩
  · subst ht
    rw [← hp]
    exact (execPresenceUpdate_of_due hdue).trans
      (congrArg _ (State.signOfLife_of_present (s := { s with awaitingPresence := rest }) hp limit))
  · subst ht
    exact (execPresenceUpdate_of_due hdue).trans
      (congrArg _ (State.signOfLife_of_absent (s := { s with awaitingPresence := rest }) hp limit))
  · have ht' := Host.Outcome.next.inj ((execPresenceUpdate_of_due hdue).symm.trans ht)
    subst ht'
    have hrouted := execControllerFrameRouting_samePresence hv
    have hclock := exec_sameClock (c := .controllerFrameRouting) (fun _ => nofun) hv
    have hw' := Host.Outcome.next.inj ((execPresenceUpdate_of_due (hrouted.awaiting.trans hdue)).symm.trans hw)
    subst hw'
    have hu' := execControllerFrameRouting_samePresence hu
    refine ⟨hu'.presence.trans (by simp only [State.signOfLife_presence]), hu'.deadline.trans ?_⟩
    simp only [State.signOfLife_presenceDeadline, hclock.now]
  · simp only [exec, execPresenceUpdate, hnone]
  · subst ht
    exact congrArg Host.Outcome.next (if_pos hdue)
  · exact congrArg Host.Outcome.next (if_neg (by simp [hdue]))

/-! ## Transmitters (R129 to R131) -/

/-- A time in four bytes, most significant first (R121). -/
theorem be32_toNat (t : Time) : be32 t.toNat
    = [t.extractLsb' 24 8, t.extractLsb' 16 8, t.extractLsb' 8 8, t.extractLsb' 0 8] := by
  simp only [be32, byteOf, List.cons.injEq, and_true]
  refine ⟨?_, ?_, ?_, ?_⟩ <;> apply BitVec.eq_of_toNat_eq <;> simp [Nat.shiftRight_eq_div_pow]

section
variable {s : State}

theorem State.chooseNext_of_verdict {v : VerdictEntry} {rest : List VerdictEntry} (h : s.verdicts = v :: rest) :
    s.chooseNext = State.originate { s with verdicts := rest } kindVerdict v.payload := by
  simp only [State.chooseNext, h]

theorem State.chooseNext_of_reply {r : ReplyEntry} {rest : List ReplyEntry} (hv : s.verdicts = []) (h : s.replies = r :: rest) :
    s.chooseNext = (State.originate { s with replies := rest } kindReply r.payload).flushHeld := by
  simp only [State.chooseNext, hv, h]

theorem State.chooseNext_of_frame {f : Frame} {rest : List Frame} (hv : s.verdicts = []) (hr : s.replies = [])
    (h : s.forwardFifo = f :: rest) : s.chooseNext = { s with forwardFifo := rest, controllerTx := some f.bytes } := by
  simp only [State.chooseNext, hv, hr, h]

theorem State.chooseNext_of_idle (hv : s.verdicts = []) (hr : s.replies = []) (h : s.forwardFifo = []) :
    s.chooseNext = { s with controllerTx := none } := by
  simp only [State.chooseNext, hv, hr, h]

theorem exec_controllerTx {c : Instr}
    (h : c = .controllerTxStart ∧ s.controllerTx = none ∨ c = .controllerTxEnd ∧ s.controllerTx ≠ none) :
    exec c s = .next s.chooseNext := by
  obtain ⟨rfl, h⟩ | ⟨rfl, h⟩ := h
  · exact congrArg Host.Outcome.next (if_pos h)
  · exact congrArg Host.Outcome.next (if_neg h)

theorem exec_sensorTx {c : Instr} (h : c = .sensorTxStart ∧ s.sensorTx = none ∨ c = .sensorTxEnd ∧ s.sensorTx ≠ none) :
    exec c s = .next s.sensorNext := by
  obtain ⟨rfl, h⟩ | ⟨rfl, h⟩ := h
  · exact congrArg Host.Outcome.next (if_pos h)
  · exact congrArg Host.Outcome.next (if_neg h)

end

/-- Settles O38: the choice of each transmitter. -/
theorem transmittersServeTheirQueues : Obligations.TransmittersServeTheirQueues := by
  refine ⟨fun s c => ⟨fun hc => ⟨fun v rest hv => ?_, fun r rest hv hr hp => ?_, fun r rest h hv hr hlen hp hheld => ?_,
    fun f rest hv hr hf => ?_, fun hv hr hf => ?_⟩, fun hc => ?_⟩,
    fun s c => ⟨fun hc => ⟨fun f rest hf => ?_, fun hf => ?_⟩, fun hc => ?_⟩⟩
  · rw [exec_controllerTx hc, State.chooseNext_of_verdict hv]
    simp only [State.originate, VerdictEntry.payload, be32_toNat]
    rfl
  · rw [exec_controllerTx hc, State.chooseNext_of_reply hv hr]
    exact congrArg _ (State.flushHeld_of_not_waiting (s := State.originate { s with replies := rest } _ _) hp)
  · rw [exec_controllerTx hc, State.chooseNext_of_reply hv hr]
    refine congrArg _ ((State.flushHeld_of_room (s := State.originate { s with replies := rest } _ _) hp hlen).trans ?_)
    simp only [State.originate, hheld]
    rfl
  · rw [exec_controllerTx hc, State.chooseNext_of_frame hv hr hf]
  · rw [exec_controllerTx hc, State.chooseNext_of_idle hv hr hf]
  · obtain ⟨rfl, h⟩ | ⟨rfl, h⟩ := hc
    · exact congrArg Host.Outcome.next (if_neg h)
    · exact congrArg Host.Outcome.next (if_pos h)
  · rw [exec_sensorTx hc]
    simp [State.sensorNext, hf]
  · rw [exec_sensorTx hc]
    simp [State.sensorNext, hf]
  · obtain ⟨rfl, h⟩ | ⟨rfl, h⟩ := hc
    · exact congrArg Host.Outcome.next (if_neg h)
    · exact congrArg Host.Outcome.next (if_pos h)

/-! ## Expiries of single records (R37, R75, R88, R95) -/

section
variable {s : State} {z : Nat} {x : Zone}

/-- An event on a zone with nothing due for it does nothing. -/
theorem ite_any_zone {p : Zone → Bool} {t : State} (hx : s.zone? z = some x) :
    (if (s.zone? z).any p then t else s) = if p x then t else s := by
  rw [hx, Option.any_some]

/-- Reading the zone a change is made of, and every other zone. -/
theorem State.modZone_reads (hx : s.zone? z = some x) (g : Zone → Zone) :
    (s.modZone z g).zone? z = some (g x) ∧ ∀ y, y ≠ z → (s.modZone z g).zone? y = s.zone? y :=
  ⟨by rw [State.zone?_modZone_same, hx, Option.map_some], fun _ hy => s.zone?_modZone_other g hy⟩

end

/-! ## The entry that a raise leaves (R107, R108) -/

section
variable {s : State} {z : Nat} {x : Zone} {r : NodeRec} {kind : VerdictKind}

/-- After a raise the zone has an entry that is its snapshot, the kind added to the history of an older one. -/
theorem State.raised_entry (kind : VerdictKind) (hr : s.active.position? z = some r) (hx : s.zone? z = some x) :
    ∃ v ∈ (s.raise z kind).verdicts, ∃ old, v = { verdictEntry s.now z r x kind with history := old ||| kind.bit } := by
  rw [State.raise_of_some kind hr hx]
  exact mem_raiseInto_self (verdictEntry s.now z r x kind) s.verdicts

theorem State.mem_raise_other (hr : s.active.position? z = some r) (hx : s.zone? z = some x) {v : VerdictEntry}
    (hv : v.zone ≠ z) : v ∈ (s.raise z kind).verdicts ↔ v ∈ s.verdicts := by
  rw [State.raise_of_some kind hr hx]
  exact mem_raiseInto_other hv

end

/-- Settles O33: the write of each expiry, and its guard. -/
theorem timersRunOut : Obligations.TimersRunOut := by
  refine ⟨fun s z x r hx hr => ⟨fun hdue hstate => ?_, fun hnot => ?_, fun hdue => ?_, fun hnot => ?_, fun hdue => ?_,
    fun hnot => ?_, fun hnot => ?_⟩, fun s i n ph hn => ⟨fun hdue => ?_, fun hnot => ?_⟩⟩
  · have hguard : (due s.now x.run.stepDeadline && decide (x.run.state = .suspect)) = true := by simp [hdue, hstate]
    obtain ⟨hself, hothers⟩ := State.modZone_reads hx fun x => { x with run := { x.run with stepDeadline := none } }
    have hset : (s.modRun z fun r => { r with stepDeadline := none }).zone? z
        = some { x with run := { x.run with stepDeadline := none } } := hself
    refine ⟨_, congrArg Host.Outcome.next ((ite_any_zone hx).trans (if_pos hguard)), rfl, hself, hothers, ?_,
      fun v hv => State.mem_raise_other (s := s.modRun z _) hr hset hv⟩
    obtain ⟨v, hv, old, rfl⟩ := State.raised_entry .advisory (s := s.modRun z _) hr hset
    exact ⟨_, hv, rfl, rfl, rfl⟩
  · refine congrArg Host.Outcome.next ((ite_any_zone hx).trans (if_neg ?_))
    simpa [imp_iff_not_or] using hnot
  · refine ⟨_, congrArg Host.Outcome.next ((ite_any_zone hx).trans (if_pos hdue)), rfl, ?_⟩
    exact State.modZone_reads hx _
  · exact congrArg Host.Outcome.next ((ite_any_zone hx).trans (if_neg (by simp [hnot])))
  · refine ⟨_, congrArg Host.Outcome.next ((ite_any_zone hx).trans (if_pos hdue)), rfl, ?_⟩
    exact State.modZone_reads hx _
  · exact congrArg Host.Outcome.next ((ite_any_zone hx).trans (if_neg (by simp [hnot])))
  · refine congrArg Host.Outcome.next ((ite_any_zone hx).trans (if_neg ?_))
    simpa [imp_iff_not_or] using hnot
  · have hexec : exec (.motionHoldExpiry i ph) s
        = .next (s.setNode i { n with motionHold := n.motionHold.set ph none }) :=
      congrArg Host.Outcome.next (by simp only [hn, hdue, if_true])
    exact ⟨_, { n with motionHold := n.motionHold.set ph none }, hexec, rfl,
      State.node?_setNode_same s i _ (State.lt_of_node? hn), rfl, PerPhase.get_set_same ..,
      fun q hq => PerPhase.get_set_other _ _ hq, fun j hj => s.node?_setNode_other _ hj⟩
  · exact congrArg Host.Outcome.next (by simp [hn, hnot])

end Sys2Proof.Machine

/-!
The proof commands and the end of a line proof (R175, R178, R179), and capture (R140 to R145).
-/

namespace Sys2Proof.Machine

/-! ## Proof commands (R175, R176, R178) -/

section
variable {s : State} {tag i mask b hi lo : Byte}

theorem execProveZone_of_range (htake : s.CanTake) (hrun : s.engine = .running) (h : 48 ≤ i.toNat ∨ 32 ≤ mask.toNat) :
    execProveZone tag [i, mask] s = .next (s.answer 0x38 tag .badParam []) :=
  refused htake ((whenRunning_of_running hrun _).trans (if_neg fun ⟨hi, hm⟩ =>
    h.elim (Nat.not_le.mpr hi) (Nat.not_le.mpr hm)))

theorem State.proofInFlight_iff : s.proofInFlight = true ↔ s.proof.state ≠ .none := decide_eq_true_iff

theorem execProveZone_of_busy (htake : s.CanTake) (hrun : s.engine = .running) (hi : i.toNat < 48) (hm : mask.toNat < 32)
    (h : s.proof.state ≠ .none) : execProveZone tag [i, mask] s = .next (s.answer 0x38 tag .busy []) :=
  refused htake ((whenRunning_of_running hrun _).trans ((if_pos ⟨hi, hm⟩).trans (if_pos (State.proofInFlight_iff.mpr h))))

theorem State.not_proofInFlight (h : s.proof.state = .none) : ¬s.proofInFlight = true := by simp [State.proofInFlight, h]

theorem execProveZone_of_provable (htake : s.CanTake) (hrun : s.engine = .running) (hi : i.toNat < 48) (hm : mask.toNat < 32)
    (h : s.proof.state = .none) (hp : s.provable i.toNat = true) : execProveZone tag [i, mask] s
      = .next (State.answer { s with proof := zoneProof i.toNat (.ofMask mask) tag } 0x38 tag .accepted []) :=
  congrArg Host.Outcome.next (State.takeCommand_of_answer htake.1 ((whenRunning_of_running hrun _).trans
    ((if_pos ⟨hi, hm⟩).trans ((if_neg (State.not_proofInFlight h)).trans (if_pos hp)))) nofun)

theorem execProveZone_of_unprovable (htake : s.CanTake) (hrun : s.engine = .running) (hi : i.toNat < 48)
    (hm : mask.toNat < 32) (h : s.proof.state = .none) (hp : s.provable i.toNat = false) :
    execProveZone tag [i, mask] s = .next (s.answer 0x38 tag .wrongState []) :=
  refused htake ((whenRunning_of_running hrun _).trans
    ((if_pos ⟨hi, hm⟩).trans ((if_neg (State.not_proofInFlight h)).trans (if_neg (by simp [hp])))))

theorem State.provable_of_zone {z : Nat} {r : NodeRec} {x : Zone} (hr : s.active.position? z = some r) (hx : s.zone? z = some x) :
    s.provable z = decide (x.run.state = .normal ∨ x.run.state = .suspect) := by
  simp [State.provable, State.zoneAt_of_some hr hx]

theorem State.provable_of_absent {z : Nat} (hr : s.active.position? z = none) : s.provable z = false := by
  simp [State.provable, State.zoneAt, hr]

theorem lineParams_of_range (h : 4 ≤ b.toNat ∨ 256 * hi.toNat + lo.toNat < 10 ∨ 2000 < 256 * hi.toNat + lo.toNat) :
    lineParams [b, hi, lo] = none := by
  have hu : u16 hi lo = 256 * hi.toNat + lo.toNat := by rw [u16, Nat.mul_comm]
  simp only [lineParams, hu]
  split
  · rename_i hin
    obtain ⟨hlow, hhigh⟩ := within_iff.mp hin
    rw [finOf_of_le (h.resolve_right (by omega))]
    rfl
  · rfl

theorem lineParams_of_eq {l : Fin 4} (hb : b.toNat = l.val) (hlow : 10 ≤ 256 * hi.toNat + lo.toNat)
    (hhigh : 256 * hi.toNat + lo.toNat ≤ 2000) : lineParams [b, hi, lo] = some (l, 256 * hi.toNat + lo.toNat) := by
  have hu : u16 hi lo = 256 * hi.toNat + lo.toNat := by rw [u16, Nat.mul_comm]
  simp only [lineParams, hu, within_iff.mpr ⟨hlow, hhigh⟩, if_true, finOf_of_eq hb, Option.map_some]

/-- Lines that follow and carry no pulse stand at their policy conditions; a pulse then asserts one line more, and the mark
is set only where that line's policy condition holds (R117, R178). -/
theorem State.recomputeLines_of_pulse {l : Fin 4} {d : Time} (hfollow : s.LinesFollow) (hfree : s.proof.state = .none)
    (hl : s.lines.get l = false) : State.recomputeLines { s with proof := lineProof l d tag }
      = { s with lines := s.lines.set l true, proof := lineProof l d tag } := by
  have hpolicy (k : Fin 4) : s.policyCondition k = s.lines.get k := by
    rw [hfollow k]; simp [State.pulseOn, hfree]
  have hpolicy' (k : Fin 4) : State.policyCondition { s with proof := lineProof l d tag } k = s.lines.get k := hpolicy k
  have hpulse (k : Fin 4) : State.pulseOn { s with proof := lineProof l d tag } k = decide (k = l) := by
    simp [State.pulseOn, lineProof, Fin.ext_iff, eq_comm]
  have hlines : (Four.of fun k => s.lines.get k || decide (k = l)) = s.lines.set l true :=
    Four.ext_get fun k => by
      rw [Four.get_of, Four.get_set]
      by_cases hk : k = l <;> simp [hk]
  have hmark : (four.any fun k => decide (k = l) && s.lines.get k) = false :=
    List.any_eq_false.mpr fun k _ => by
      by_cases hk : k = l <;> simp [hk, hl]
  simp only [State.recomputeLines, hpolicy', hpulse, hlines, hmark]
  rfl

end

/-- Settles O50: the range of the parameters, the proof in flight and the target, in this order. -/
theorem proofCommandsStartOneProof : Obligations.ProofCommandsStartOneProof := by
  intro s tag htake
  refine ⟨fun i mask r x hrun hi hm hr hx => ⟨fun hbusy => ?_, fun hfree hstate => ?_, fun hfree hn hs => ?_⟩,
    fun i mask hrun => ⟨fun hrange => execProveZone_of_range htake hrun hrange,
      fun hi hm hr => ⟨fun hbusy => ?_, fun hfree => ?_⟩⟩,
    fun b hi lo hrange => ?_, fun l b hi lo hb hlow hhigh => ⟨fun hbusy => ?_, fun hfree hl => ?_, fun hfree hl hfollow => ?_⟩⟩
  · exact execProveZone_of_busy htake hrun hi hm hbusy
  · refine execProveZone_of_provable htake hrun hi hm hfree ?_
    rw [State.provable_of_zone hr hx]
    exact decide_eq_true hstate
  · refine execProveZone_of_unprovable htake hrun hi hm hfree ?_
    simp [State.provable_of_zone hr hx, hn, hs]
  · exact execProveZone_of_busy htake hrun hi hm hbusy
  · exact execProveZone_of_unprovable htake hrun hi hm hfree (State.provable_of_absent hr)
  · exact refused htake (by simp only [lineParams_of_range hrange])
  · refine refused htake ?_
    simp only [lineParams_of_eq hb hlow hhigh, State.proofInFlight_iff.mpr hbusy, if_true]
  · refine refused htake ?_
    simp [lineParams_of_eq hb hlow hhigh, State.proofInFlight, hfree, hl]
  · refine congrArg Host.Outcome.next (State.takeCommand_of_answer htake.1 ?_ ?_)
    · simp [lineParams_of_eq hb hlow hhigh, State.proofInFlight, hfree, hl, State.recomputeLines_of_pulse hfollow hfree hl]
      rfl
    · exact nofun

/-! ## The end of a proof (R178, R179) -/

section
variable {s : State}

/-- Without a pulse the lines are at their policy conditions (R114). -/
theorem State.recomputeLines_of_no_pulse (h : s.proof.state ≠ .pulseRunning) :
    s.recomputeLines = { s with lines := Four.of s.policyCondition } := by
  simp [State.recomputeLines, State.pulseOn, h, four]

/-- What flushing leaves of a completion made at a given reply queue. -/
theorem State.flushHeld_of_completed (status : Status) (data : List Byte) (lines : Four Bool) (replies : List ReplyEntry)
    {code g : Byte} (htag : s.proof.tag = some g)
    (hcode : (if s.proof.kind = some .proveLine then codeProveLine else codeProveZone) = code) :
    State.flushHeld { s.completeProof status data with lines := lines, replies := replies }
      = if replies.length < 4 then
          { s with lines := lines, proof := .idle, replies := replies ++ [⟨code, g, status, data⟩] }
        else
          { s with
            lines := lines
            proof := { s.proof with
              state := .completionWaiting, pulseDeadline := none, held := some ⟨code, g, status, data⟩ }
            replies := replies } := by
  have hheld : s.completeProof status data = { s with proof := { s.proof with
      state := .completionWaiting, pulseDeadline := none, held := some ⟨code, g, status, data⟩ } } := by
    simp only [State.completeProof, htag, hcode, Option.getD_some]
  rw [hheld]
  split
  · exact State.flushHeld_of_room rfl ‹_›
  · exact State.flushHeld_of_full (Nat.le_of_not_lt ‹_›)

end

/-- CANCEL PROOF of a proof in flight: its completion follows the REPLY, or is held (R179). -/
theorem execCancelProof_of_inFlight {s : State} {tag g code : Byte} {lines : Four Bool} (htake : s.CanTake)
    (htag : s.proof.tag = some g)
    (hcase : s.proof.state = .zonePending ∧ s.proof.kind = some .proveZone ∧ code = 0x38 ∧ lines = s.lines
      ∨ s.proof.state = .pulseRunning ∧ s.proof.kind = some .proveLine ∧ code = 0x39 ∧ lines = Four.of s.policyCondition) :
    execCancelProof tag [] s = .next (if (s.replies ++ [(⟨0x3A, tag, .done, []⟩ : ReplyEntry)]).length < 4 then
        { s with
          lines := lines
          proof := .idle
          replies := s.replies ++ [⟨0x3A, tag, .done, []⟩] ++ [⟨code, g, .cancelled, []⟩] }
      else
        { s with
          lines := lines
          proof := { s.proof with
            state := .completionWaiting, pulseDeadline := none, held := some ⟨code, g, .cancelled, []⟩ }
          replies := s.replies ++ [⟨0x3A, tag, .done, []⟩] }) := by
  refine congrArg Host.Outcome.next ((State.takeCommand_of_room htake.1 ..).trans ?_)
  obtain ⟨hstate, hkind, rfl, rfl⟩ | ⟨hstate, hkind, rfl, rfl⟩ := hcase
  · simp only [noParams_nil, hstate]
    exact State.flushHeld_of_completed .cancelled [] s.lines _ htag (if_neg (by simp [hkind]))
  · simp only [noParams_nil, hstate, done]
    rw [State.recomputeLines_of_no_pulse (s := s.completeProof .cancelled []) nofun]
    exact State.flushHeld_of_completed (s := s) .cancelled [] _ _ htag (if_pos hkind)

/-- Settles O51: a completion is made, the lines fall back, and the completion joins the queue where there is room. -/
theorem proofsEndWithOneCompletion : Obligations.ProofsEndWithOneCompletion := by
  intro s tag
  refine ⟨fun htake hnone => refused htake (by simp only [noParams_nil, hnone]), fun g code lines htake htag hcase => ?_,
    fun g status hstate hkind htag hstatus hdue => ?_, fun hnot => ?_⟩
  · have hcancel := execCancelProof_of_inFlight (tag := tag) htake htag hcase
    refine hcancel.trans (congrArg _ ?_)
    have hlength : (s.replies ++ [(⟨0x3A, tag, .done, []⟩ : ReplyEntry)]).length < 4 ↔ s.replies.length < 3 := by simp; omega
    simp only [hlength, List.append_assoc, List.cons_append, List.nil_append]
  · have hguard : due s.now s.proof.pulseDeadline = true ∧ s.proof.state = .pulseRunning := ⟨hdue, hstate⟩
    have hcode : (if s.proof.kind = some .proveLine then codeProveLine else codeProveZone) = 0x39 := if_pos hkind
    refine congrArg Host.Outcome.next ((if_pos hguard).trans ?_)
    rw [← hstatus, State.recomputeLines_of_no_pulse (s := s.completeProof status []) nofun]
    exact State.flushHeld_of_completed status [] _ s.replies htag hcode
  · refine congrArg Host.Outcome.next (if_neg fun h => ?_)
    obtain hstate | hdue := hnot
    · exact hstate h.2
    · rw [h.1] at hdue
      cases hdue

/-! ## Capture (R140 to R145) -/

section
variable {s : State} {f i : Fin 4}

theorem State.fillingSlot_eq_some (h : (s.slots.get i).state = .filling) (hf : (s.slots.get i).feeder = some f)
    (hunique : ∀ j, (s.slots.get j).state = .filling → (s.slots.get j).feeder = some f → j = i) : s.fillingSlot f = some i := by
  cases hfound : s.fillingSlot f with
  | none => exact absurd hf (State.fillingSlot_none hfound i h)
  | some j =>
    obtain ⟨hj, hjf⟩ := State.fillingSlot_some hfound
    rw [hunique j hj hjf]

theorem State.fillingSlot_eq_none (h : ∀ j, (s.slots.get j).state = .filling → (s.slots.get j).feeder ≠ some f) :
    s.fillingSlot f = none :=
  Option.eq_none_iff_forall_ne_some.mpr fun j hfound =>
    have ⟨hj, hjf⟩ := State.fillingSlot_some hfound
    h j hj hjf

theorem State.freeSlot_eq_some (h : (s.slots.get i).state = .free) (hlow : ∀ j, j < i → (s.slots.get j).state ≠ .free) :
    s.freeSlot = some i := by
  cases hfound : s.freeSlot with
  | none => exact absurd h (State.freeSlot_none hfound i)
  | some j =>
    obtain ⟨hj, hjlow⟩ := State.freeSlot_some hfound
    obtain hlt | rfl | hgt := lt_trichotomy j i
    · exact absurd hj (hlow j hlt)
    · rfl
    · exact absurd h (hjlow i hgt)

theorem State.freeSlot_eq_none (h : ∀ j, (s.slots.get j).state ≠ .free) : s.freeSlot = none :=
  Option.eq_none_iff_forall_ne_some.mpr fun j hfound => h j (State.freeSlot_some hfound).1

/-- A slot that takes a record, at the length its two parts make (R145). -/
theorem Slot.append_eq {x : Slot} (hx : x.Whole) (hf : x.state = .filling) (c : CaptureRecord) : x.append c = { x with
    records := x.records ++ [c]
    state := if x.records.length + 1 = x.preRecords + x.postTarget then .frozen else .filling } := by
  have hfilling := hx.filling hf
  have hparts := hx.parts
  simp only [Slot.append, hf]
  congr 1
  exact if_congr (by omega) rfl rfl

end

/-- Settles O48: a trigger by the slot it finds, a record by the ring and the FILLING slot of its feeder. -/
theorem triggersAndRecordsFillTheSlots : Obligations.TriggersAndRecordsFillTheSlots := by
  refine ⟨fun s f kind subject selected hselected => ?_, fun s t f kind subject ht => ⟨fun i hi hf hunique => ?_,
    fun hnone => ⟨fun i hi hlow => ?_, fun hfull => ?_⟩⟩, fun s t f c hwhole hused ht => ?_⟩
  · subst hselected
    cases kind <;> rfl
  · subst ht
    simp only [State.captureTrigger, State.fillingSlot_eq_some hi hf hunique]
    rfl
  · refine ⟨s.newSlot f kind subject, ?_, ?_, ?_⟩
    · simp only [ht, State.captureTrigger, State.fillingSlot_eq_none hnone, State.freeSlot_eq_some hi hlow]
    · simp [State.newSlot]
    · exact (lastN_suffix _ _).imp fun older h => ⟨h, lastN_length ..⟩
  · simp only [ht, State.captureTrigger, State.fillingSlot_eq_none hnone, State.freeSlot_eq_none hfull]
    rfl
  · have hrings : t.rings = s.rings.set f (lastN Config.ringCapacity (s.rings.get f ++ [c])) := by
      simp only [ht, State.pushRecord, hused, if_true]
    refine ⟨ht ▸ s.pushRecord_eq f c, fun g hg => hrings ▸ Four.get_set_other _ _ hg, fun hlen => ?_, fun hlen => ?_,
      fun i x hx => ⟨fun hstate hfeeder => ?_, fun hnot => ?_⟩⟩
    · rw [hrings, Four.get_set_same]
      exact lastN_of_le (by simp [Config.ringCapacity]; omega)
    · rw [hrings, Four.get_set_same, lastN]
      cases hring : s.rings.get f with
      | nil => simp [hring] at hlen
      | cons a rest => simp [hring] at hlen; simp [Config.ringCapacity, hlen]
    · subst hx
      have hfound : s.fillingSlot f = some i := State.fillingSlot_eq_some hstate hfeeder fun j hj hjf =>
        hwhole.oneFilling j i hj hstate (hjf.trans hfeeder.symm)
      simp only [ht, State.pushRecord, hused, if_true, hfound, Four.get_set_same]
      exact Slot.append_eq (hwhole.slots i) hstate c
    · subst hx
      obtain hsame | ⟨j, hj, hjf, hset⟩ := s.pushRecord_slots_cases f c
      · rw [ht, hsame]
      · rw [ht, hset]
        refine Four.get_set_other _ _ ?_
        rintro rfl
        exact hnot.elim (fun h => h hj) fun h => h hjf

end Sys2Proof.Machine

/-!
The node tracker: frames from sensing units (R20 to R27, R29, R30, R35, R36).
-/

namespace Sys2Proof.Machine

/-! ## A frame that reaches a node (R20) -/

section
variable {s : State} {f : Frame} {i : Nat} {r : NodeRec} {n : NodeRun}

theorem State.trackFrame_of_unknown (h : s.active.find? f.address = none) :
    s.trackFrame f = s.modCounters fun c => { c with unknownSource := gain c.unknownSource } := by
  simp only [State.trackFrame, h, Option.bind_none]

theorem State.trackFrame_of_known (h : s.active.find? f.address = some i) (hr : s.active.node? i = some r)
    (hn : s.node? i = some n) : s.trackFrame f = if f.kind = kindCycle then s.takeCycle i r n f
      else if f.kind = kindAlert then s.takeAlert i r n f else s.takeIdent i r n f := by
  simp only [State.trackFrame, h, Option.bind_some, hr, hn, Option.map_some]

/-- A CYCLE frame at a known unit is taken as one. -/
theorem State.trackFrame_cycle (h : s.active.find? f.address = some i) (hr : s.active.node? i = some r)
    (hn : s.node? i = some n) (hkind : f.kind = 0x10) : s.trackFrame f = s.takeCycle i r n f :=
  (State.trackFrame_of_known h hr hn).trans (if_pos hkind)

theorem State.trackFrame_alert (h : s.active.find? f.address = some i) (hr : s.active.node? i = some r)
    (hn : s.node? i = some n) (hkind : f.kind = 0x11) : s.trackFrame f = s.takeAlert i r n f := by
  rw [State.trackFrame_of_known h hr hn, hkind]
  rfl

theorem State.trackFrame_ident (h : s.active.find? f.address = some i) (hr : s.active.node? i = some r)
    (hn : s.node? i = some n) (hkind : f.kind = 0x12) : s.trackFrame f = s.takeIdent i r n f := by
  rw [State.trackFrame_of_known h hr hn, hkind]
  rfl

theorem State.setNode_self (hn : s.node? i = some n) : s.setNode i n = s := by
  obtain ⟨hlt, hget⟩ := List.getElem?_eq_some_iff.mp (Option.join_eq_some_iff.mp hn)
  have hnodes : s.nodes.set i (some n) = s.nodes := hget ▸ List.set_getElem_self hlt
  rw [State.setNode, hnodes]

theorem State.setNode_setNode (s : State) (i : Nat) (n m : NodeRun) : (s.setNode i n).setNode i m = s.setNode i m := by
  simp only [State.setNode, List.set_set]

theorem State.pushRecord_setNode (s : State) (i : Nat) (n : NodeRun) (g : Fin 4) (c : CaptureRecord) :
    (s.setNode i n).pushRecord g c = (s.pushRecord g c).setNode i n := by
  have hslot : (s.setNode i n).fillingSlot g = s.fillingSlot g := rfl
  by_cases h : s.active.feederUsed g = true
  · simp only [State.pushRecord, State.setNode_active, h, if_true, hslot]
    rfl
  · simp only [State.pushRecord, State.setNode_active, h, Bool.false_eq_true, if_false]

end

/-! ## CYCLE frames that are ignored (R20, R24) -/

/-- Settles O19: the states that take no CYCLE frame. -/
theorem ignoredCycleFramesTouchNoRecord : Obligations.IgnoredCycleFramesTouchNoRecord := by
  refine ⟨fun s f h => State.trackFrame_of_unknown h, fun s f i r n h hr hn hkind => ⟨fun hs => ?_, fun hs => ?_⟩⟩
  · rw [State.trackFrame_cycle h hr hn hkind, State.takeCycle, hs]
    rfl
  · rw [State.trackFrame_cycle h hr hn hkind, State.takeCycle]
    obtain hs | ⟨hs, hreturn⟩ := hs
    · rw [hs]
    · rw [hs]
      exact if_neg (by simp [hreturn])

/-! ## IDENT frames (R21, R22) -/

theorem identMatches_iff {r : NodeRec} {sensing fitted : Byte} : identMatches r sensing fitted = true
    ↔ sensing = (if r.voltageSensing then 1 else 0) ∧ fitted.getLsbD 0 = true ∧ fitted.getLsbD 1 = true
      ∧ fitted.getLsbD 2 = true := by
  simp only [identMatches, Bool.and_eq_true, decide_eq_true_eq, phaseBit, and_assoc]
  rfl

section
variable {n : NodeRun} {now : Time} {r : NodeRec} {p : ChannelProfile} {cls sensing fitted : Byte}

theorem NodeRun.ident_of_barred (h : n.state = .barred) : n.ident now r p cls sensing fitted = n := if_pos h

theorem NodeRun.ident_of_start (hmatch : identMatches r sensing fitted = true)
    (h : n.state = .expected ∨ (n.state = .silent ∧ r.autoReturn)) :
    n.ident now r p cls sensing fitted = { n with unitClass := some cls }.toWarming now p :=
  (if_neg (by obtain h | ⟨h, -⟩ := h <;> simp [h])).trans ((if_pos hmatch).trans (if_pos h))

theorem NodeRun.ident_of_known (hmatch : identMatches r sensing fitted = true)
    (h : n.state = .warming ∨ n.state = .live ∨ (n.state = .silent ∧ r.autoReturn = false)) :
    n.ident now r p cls sensing fitted = { n with unitClass := some cls } :=
  (if_neg (by obtain h | h | ⟨h, -⟩ := h <;> simp [h])).trans
    ((if_pos hmatch).trans (if_neg (by obtain h | h | ⟨h, hr⟩ := h <;> simp [*])))

theorem NodeRun.ident_of_mismatch (hmatch : ¬identMatches r sensing fitted = true) (h : n.state ≠ .barred) :
    n.ident now r p cls sensing fitted = { n with unitClass := some cls }.toBarred .mismatch :=
  (if_neg h).trans (if_neg hmatch)

end

/-- Settles O17: the record after the frame by the node's state, its feeder recomputed where it leaves LIVE. -/
theorem identMovesTheUnit : Obligations.IdentMovesTheUnit := by
  intro s f i r n m cls sensing fitted matched h hr hn hkind hpayload hmatched hm
  rw [← identMatches_iff] at hmatched
  have htaken : s.trackFrame f
      = s.changeNode i r.feeder n (n.ident s.now r (s.active.profileOf r) cls sensing fitted) := by
    rw [State.trackFrame_ident h hr hn hkind, State.takeIdent, hpayload]
    rfl
  have hbarred : { n with unitClass := some cls }.toBarred .mismatch = m := hm.symm
  refine ⟨fun hmatch hs => ?_, fun hmatch hs => ?_, fun hmatch hs => ?_, fun hmatch hs => ?_, fun hs => ?_⟩
  · rw [htaken, NodeRun.ident_of_start (hmatched.mp hmatch) hs]
    refine State.changeNode_of_isLive_eq ?_
    obtain hs | ⟨hs, -⟩ := hs <;> simp [NodeRun.isLive, NodeRun.toWarming, hs]
  · rw [htaken, NodeRun.ident_of_known (hmatched.mp hmatch) hs]
    exact State.changeNode_of_isLive_eq rfl
  · rw [htaken, NodeRun.ident_of_mismatch (fun hi => hmatch (hmatched.mpr hi)) (by obtain hs | hs | hs := hs <;> simp [hs]),
      hbarred]
    refine State.changeNode_of_isLive_eq ?_
    obtain hs | hs | hs := hs <;> simp [NodeRun.isLive, hm, hs]
  · have hleft : s.trackFrame f = (s.setNode i m).recompute r.feeder := by
      rw [htaken, NodeRun.ident_of_mismatch (fun hi => hmatch (hmatched.mpr hi)) (by simp [hs]), hbarred]
      exact State.changeNode_of_isLive_ne (by simp [NodeRun.isLive, hm, hs])
    exact ⟨hleft, hleft ▸ State.recompute_outside _ _⟩
  · rw [htaken, NodeRun.ident_of_barred hs, State.changeNode_of_isLive_eq rfl, State.setNode_self hn]

/-! ## ALERT frames (R35, R36) -/

/-- Settles O21: the kind byte, then the node's state, decide what an ALERT does. -/
theorem motionAlertSetsHolds : Obligations.MotionAlertSetsHolds := by
  intro s f i r n kind mask h hr hn hfkind hpayload
  have htaken := State.trackFrame_alert h hr hn hfkind
  have hkind : byteAt f.payload 0 = kind := by rw [hpayload]; rfl
  have hmask : byteAt f.payload 1 = mask := by rw [hpayload]; rfl
  simp only [State.takeAlert, hkind, hmask] at htaken
  refine ⟨fun hone hs => ?_, fun hone hs => ?_, fun hone => ?_⟩
  · refine ⟨n.motion s.now (s.active.profileOf r) mask, ?_, rfl, fun ph => PerPhase.get_of _ ph⟩
    rw [htaken, if_pos hone, if_neg (by obtain hs | hs | hs := hs <;> simp [hs])]
  · rw [htaken, if_pos hone, if_pos hs]
  · rw [htaken, if_neg hone]
    rfl

/-! ## CYCLE frames that are taken (R25 to R27, R29, R30) -/

section
variable {s : State} {f : Frame} {i : Nat} {r : NodeRec} {old n : NodeRun} {p : ChannelProfile} {d sats : Nat}
  {autoBar hit : Bool} {h : Health}

theorem seqCheck_of_accepted {expect : Option Byte} {sequence : Byte} (hnone : expect = none → d = 0)
    (hsome : ∀ e, expect = some e → d = (sequence - e).toNat) (hd : d < 128) : seqCheck expect sequence = .accepted d := by
  cases expect with
  | none => rw [hnone rfl]; rfl
  | some e =>
    have hd' := hsome e rfl
    subst hd'
    exact if_pos hd

theorem seqCheck_of_stale {expect : Option Byte} {sequence : Byte} (hnone : expect = none → d = 0)
    (hsome : ∀ e, expect = some e → d = (sequence - e).toNat) (hd : 128 ≤ d) : seqCheck expect sequence = .stale := by
  cases expect with
  | none => have := hnone rfl; omega
  | some e =>
    have hd' := hsome e rfl
    subst hd'
    exact if_neg (Nat.not_lt.mpr hd)

/-- A check that bars nothing sets the flag where it found a value at its threshold. -/
theorem NodeRun.checked_of_stands (hstands : hit = false ∨ autoBar = false) :
    n.checked autoBar hit = { n with exceeded := n.exceeded || hit } := by
  obtain rfl | rfl := hstands
  · simp [NodeRun.checked]
  · cases hit <;> simp [NodeRun.checked]

theorem NodeRun.checked_of_bars (hhit : hit = true) (hbar : autoBar = true) : n.checked autoBar hit = { n with
    exceeded := true, state := .barred, barReason := some .health, seqExpect := none, silenceDeadline := none } := by
  subst hhit hbar
  rfl

/-- Steps 1 and 2 of R26. -/
theorem NodeRun.countFrame_eq
    (hh : h = { n.health with gaps := min 65535 (n.health.gaps + d), saturations := min 65535 (n.health.saturations + sats) })
    (hhit : hit = decide ((d ≠ 0 ∧ p.thresholds.gaps ≠ 0 ∧ p.thresholds.gaps ≤ h.gaps)
      ∨ (sats ≠ 0 ∧ p.thresholds.saturations ≠ 0 ∧ p.thresholds.saturations ≤ h.saturations))) :
    n.countFrame autoBar p d sats = { n with health := h }.checked autoBar hit := by
  subst hh hhit
  simp only [NodeRun.countFrame, reachesThreshold, satAdd]
  congr 1
  simp

/-- A stale frame is counted and checked (R25, R29). -/
theorem NodeRun.stale_eq (hh : h = { n.health with stales := min 65535 (n.health.stales + 1) })
    (hhit : hit = decide (p.thresholds.stales ≠ 0 ∧ p.thresholds.stales ≤ h.stales)) :
    n.stale autoBar p = { n with health := h }.checked autoBar hit := by
  subst hh hhit
  rfl

theorem State.cycleTaken_of_stale (hseq : seqCheck n.seqExpect f.sequence = .stale) :
    s.cycleTaken i r old n f = s.changeNode i r.feeder old (n.stale r.autoBar (s.active.profileOf r)) := by
  simp only [State.cycleTaken, hseq]

theorem State.cycleTaken_of_barred (hseq : seqCheck n.seqExpect f.sequence = .accepted d) {m : NodeRun}
    (hm : n.countFrame r.autoBar (s.active.profileOf r) d (countPhases (cycleFlags f.payload)) = m)
    (hbarred : m.state = .barred) : s.cycleTaken i r old n f = s.changeNode i r.feeder old m := by
  simp only [State.cycleTaken, hseq, hm, hbarred, if_true]

theorem State.cycleTaken_of_accepted (hseq : seqCheck n.seqExpect f.sequence = .accepted d) {m : NodeRun}
    (hm : n.countFrame r.autoBar (s.active.profileOf r) d (countPhases (cycleFlags f.payload)) = m)
    (hstands : m.state ≠ .barred) : s.cycleTaken i r old n f = (s.pushRecord r.feeder (recordOf s.now f)).changeNode i
      r.feeder old (m.acceptFrame s.now r.voltageSensing (s.active.profileOf r) f) := by
  simp only [State.cycleTaken, hseq, hm, hstands, if_false]

theorem NodeRun.acceptFrame_of_live {now : Time} {sensing : Bool} (hs : n.state = .live) :
    n.acceptFrame now sensing p f = { n with
      seqExpect := some (f.sequence + 1)
      silenceDeadline := some (after now p.silenceLimit)
      channels := takeChannels p sensing f.payload n.channels } :=
  if_neg (by simp [hs])

theorem NodeRun.acceptFrame_of_warming {now : Time} {sensing : Bool} (hs : n.state = .warming) :
    n.acceptFrame now sensing p f = { n with
      seqExpect := some (f.sequence + 1)
      silenceDeadline := some (after now p.silenceLimit)
      channels := takeChannels p sensing f.payload n.channels
      warmUp := min 1024 (n.warmUp + 1)
      state := if p.warmUpCount ≤ min 1024 (n.warmUp + 1) then .live else .warming } :=
  if_pos hs

end

/-- Settles O18: sequence check and health check decide; a LIVE node stays LIVE unless it is barred. -/
theorem cycleFrameOfALiveUnit : Obligations.CycleFrameOfALiveUnit := by
  intro s f i r n p h d sats hit hfind hr hn hkind hs hp hsats hnone hsome
  subst hp hsats
  have htaken : s.trackFrame f = s.cycleTaken i r n n f := by
    rw [State.trackFrame_cycle hfind hr hn hkind, State.takeCycle, hs]
  refine ⟨fun hd hh hhit => ⟨fun hstands => ?_, fun hbars hauto => ?_⟩, fun hd hh hhit => ⟨fun hstands => ?_,
    fun hbars hauto => ?_⟩⟩
  · have hcount := (NodeRun.countFrame_eq (n := n) (autoBar := r.autoBar) hh hhit).trans (NodeRun.checked_of_stands hstands)
    rw [htaken, State.cycleTaken_of_accepted (seqCheck_of_accepted hnone hsome hd) hcount (by simp [hs]),
      NodeRun.acceptFrame_of_live (by simp [hs])]
    exact State.changeNode_of_isLive_eq rfl
  · have hcount := (NodeRun.countFrame_eq (n := n) (autoBar := r.autoBar) hh hhit).trans (NodeRun.checked_of_bars hbars hauto)
    rw [htaken, State.cycleTaken_of_barred (seqCheck_of_accepted hnone hsome hd) hcount rfl]
    exact State.changeNode_of_isLive_ne (by simp [NodeRun.isLive, hs])
  · have hcount := (NodeRun.stale_eq (n := n) (autoBar := r.autoBar) hh hhit).trans (NodeRun.checked_of_stands hstands)
    rw [htaken, State.cycleTaken_of_stale (seqCheck_of_stale hnone hsome hd), hcount]
    exact State.changeNode_of_isLive_eq rfl
  · have hcount := (NodeRun.stale_eq (n := n) (autoBar := r.autoBar) hh hhit).trans (NodeRun.checked_of_bars hbars hauto)
    rw [htaken, State.cycleTaken_of_stale (seqCheck_of_stale hnone hsome hd), hcount]
    exact State.changeNode_of_isLive_ne (by simp [NodeRun.isLive, hs])

/-- A SILENT node's first frame of a warm-up is that of the WARMING node it becomes (R24). -/
theorem State.cycleTaken_of_silent {s : State} {f : Frame} {i : Nat} {r : NodeRec} {n w : NodeRun} (hn : n.state = .silent)
    (hw : w.state = .warming) : s.cycleTaken i r n w f = (s.setNode i w).cycleTaken i r w w f := by
  have hlive : n.isLive = w.isLive := by simp [NodeRun.isLive, hn, hw]
  have hchange (t : State) (m : NodeRun) : t.changeNode i r.feeder n m = (t.setNode i w).changeNode i r.feeder w m := by
    simp only [State.changeNode, hlive, State.setNode_setNode]
  simp only [State.cycleTaken, State.setNode_active, State.setNode_now, State.pushRecord_setNode, hchange]

/-- Settles O20: as for a LIVE unit, the progress deciding whether the node enters LIVE. -/
theorem warmUpEndsInLive : Obligations.WarmUpEndsInLive := by
  intro s f i r n p hfind hr hn hkind hp
  subst hp
  refine ⟨fun h d sats progress hit m barred hs hsats hprogress hnone hsome hbarred => ?_, fun hs hreturn => ?_⟩
  · subst hsats hprogress hbarred
    have htaken : s.trackFrame f = s.cycleTaken i r n n f := by
      rw [State.trackFrame_cycle hfind hr hn hkind, State.takeCycle, hs]
    have hnot : n.isLive = false := NodeRun.isLive_eq_false (by simp [hs])
    refine ⟨fun hd hh hhit hm => ?_, fun hd hh hhit => ⟨fun hstands => ?_, fun hbars hauto => ?_⟩⟩
    · have hseq := seqCheck_of_accepted hnone hsome hd
      have hcount := NodeRun.countFrame_eq (n := n) (autoBar := r.autoBar) hh hhit
      refine ⟨fun hstands hlow => ?_, fun hstands hhigh => ?_, fun hbars hauto => ?_⟩
      · rw [htaken, State.cycleTaken_of_accepted hseq (hcount.trans (NodeRun.checked_of_stands hstands)) (by simp [hs]),
          NodeRun.acceptFrame_of_warming (by simp [hs]), if_neg (Nat.not_le.mpr hlow), hm, ← hs]
        exact State.changeNode_of_isLive_eq rfl
      · have hlive : s.trackFrame f
            = ((s.pushRecord r.feeder (recordOf s.now f)).setNode i { m with state := .live }).recompute r.feeder := by
          rw [htaken, State.cycleTaken_of_accepted hseq (hcount.trans (NodeRun.checked_of_stands hstands)) (by simp [hs]),
            NodeRun.acceptFrame_of_warming (by simp [hs]), if_pos hhigh, hm]
          exact State.changeNode_of_isLive_ne (by simp [NodeRun.isLive, hs])
        exact ⟨hlive, hlive ▸ State.recompute_outside _ _⟩
      · rw [htaken, State.cycleTaken_of_barred hseq (hcount.trans (NodeRun.checked_of_bars hbars hauto)) rfl]
        exact State.changeNode_of_isLive_eq hnot
    · have hcount := (NodeRun.stale_eq (n := n) (autoBar := r.autoBar) hh hhit).trans (NodeRun.checked_of_stands hstands)
      rw [htaken, State.cycleTaken_of_stale (seqCheck_of_stale hnone hsome hd), hcount]
      exact State.changeNode_of_isLive_eq rfl
    · have hcount := (NodeRun.stale_eq (n := n) (autoBar := r.autoBar) hh hhit).trans (NodeRun.checked_of_bars hbars hauto)
      rw [htaken, State.cycleTaken_of_stale (seqCheck_of_stale hnone hsome hd), hcount]
      exact State.changeNode_of_isLive_eq hnot
  · have hwarming := State.node?_setNode_same s i (n.toWarming s.now (s.active.profileOf r)) (State.lt_of_node? hn)
    rw [State.trackFrame_cycle hfind hr hn hkind, State.takeCycle, hs]
    refine (if_pos hreturn).trans ((State.cycleTaken_of_silent hs rfl).trans ?_)
    exact (State.trackFrame_cycle (s := s.setNode i (n.toWarming s.now (s.active.profileOf r))) hfind hr hwarming hkind).symm

end Sys2Proof.Machine

/-!
Hand-offs (R87, R91, R96, R97, R99, R100) and the recomputation of a feeder (R12, R14, R15).
-/

namespace Sys2Proof.Machine

/-! ## What an event on a zone tells the other units -/

section
variable {s t : State} {z : Nat}

theorem State.abandonProof_of_other (h : s.proof.state ≠ .zonePending ∨ s.proof.target ≠ some z) : s.abandonProof z = s :=
  if_neg fun ⟨hs, ht⟩ => h.elim (· hs) (· ht)

theorem State.abandonProof_of_pending (hs : s.proof.state = .zonePending) (ht : s.proof.target = some z) :
    s.abandonProof z = s.completeProof .abandoned [] := if_pos ⟨hs, ht⟩

/-- The end of a proof depends on the proof record alone. -/
theorem State.abandonProof_proof_congr (h : t.proof = s.proof) : (t.abandonProof z).proof = (s.abandonProof z).proof := by
  unfold State.abandonProof
  rw [h]
  split
  · simp only [State.completeProof, h]
  · exact h

/-- A zone proof that is abandoned waits to complete with ABANDONED (R177, R179). -/
theorem State.completeProof_proof {g : Byte} (hk : s.proof.kind = some .proveZone) (hg : s.proof.tag = some g)
    (status : Status) (data : List Byte) : (s.completeProof status data).proof = { s.proof with
      state := .completionWaiting, pulseDeadline := none, held := some ⟨0x38, g, status, data⟩ } := by
  simp only [State.completeProof, hk, hg]
  rfl

/-- A trigger reads nothing of a zone. -/
theorem State.raiseTrigger_modZone (s : State) (z : Nat) (h : Zone → Zone) (f : Fin 4) (kind : TriggerKind)
    (subject : Option Nat) : (s.modZone z h).raiseTrigger f kind subject = (s.raiseTrigger f kind subject).modZone z h := by
  have hselects : (s.modZone z h).selects kind = s.selects kind := by cases kind <;> rfl
  have hfilling : (s.modZone z h).fillingSlot f = s.fillingSlot f := rfl
  have hfree : (s.modZone z h).freeSlot = s.freeSlot := rfl
  unfold State.raiseTrigger State.captureTrigger
  rw [hselects, hfilling, hfree]
  cases s.selects kind with
  | false => rfl
  | true => cases s.fillingSlot f with
    | some i => rfl
    | none => cases s.freeSlot <;> rfl

theorem State.raiseTrigger_slots_modRun (s : State) (z : Nat) (g : ZoneRecord → ZoneRecord) (f : Fin 4) (kind : TriggerKind)
    (subject : Option Nat) : ((s.modRun z g).raiseTrigger f kind subject).slots = (s.raiseTrigger f kind subject).slots
      ∧ ((s.modRun z g).raiseTrigger f kind subject).missed = (s.raiseTrigger f kind subject).missed := by
  rw [State.modRun, State.raiseTrigger_modZone]
  exact ⟨rfl, rfl⟩

end

/-! ## Everything a hand-off can do -/

/-- What a hand-off of `new` is, by the state of the zone `x` it reaches. -/
inductive HandsOff (s : State) (z : Nat) (x : Zone) (new : Evaluability) : State → Prop where
  | held (ht : x.isTripped = true) : HandsOff s z x new s
  | unmoved (h : x.run.state = .absorbed ∧ new = .absorbed
      ∨ (x.run.state = .normal ∨ x.run.state = .suspect) ∧ new = .evaluable) : HandsOff s z x new s
  | absorbs (hs : x.run.state = .normal ∨ x.run.state = .suspect ∨ x.run.state = .degraded) (hn : new = .absorbed) :
      HandsOff s z x new (s.enterAbsorbed z)
  | degrades {reason : Reason} (hr : degradeReason new = some reason)
      (hs : x.run.state = .normal ∨ x.run.state = .suspect ∨ x.run.state = .absorbed) :
      HandsOff s z x new (s.enterDegraded z reason)
  | changes {reason : Reason} (hr : degradeReason new = some reason) (hs : x.run.state = .degraded) :
      HandsOff s z x new (s.changeDegraded z reason)
  | returns (hs : x.run.state = .absorbed) (hn : new = .evaluable) : HandsOff s z x new (s.restoreAbsorbed z)
  | restores (hs : x.run.state = .degraded) (hn : new = .evaluable) : HandsOff s z x new (s.restoreDegraded z)

section
variable {s : State} {z : Nat} {x : Zone} {new : Evaluability} {reason : Reason}

theorem State.handOff_absorbs (hx : s.zone? z = some x)
    (hs : x.run.state = .normal ∨ x.run.state = .suspect ∨ x.run.state = .degraded) :
    s.handOff z .absorbed = s.enterAbsorbed z := by
  obtain hs | hs | hs := hs <;> simp only [State.handOff, hx, hs]

theorem State.handOff_degrades (hx : s.zone? z = some x) (hr : degradeReason new = some reason)
    (hs : x.run.state = .normal ∨ x.run.state = .suspect ∨ x.run.state = .absorbed) :
    s.handOff z new = s.enterDegraded z reason := by
  cases new with
  | evaluable | absorbed => cases hr
  | headLost | boundaryOverflow => cases hr; obtain hs | hs | hs := hs <;> simp only [State.handOff, hx, hs]

theorem State.handOff_changes (hx : s.zone? z = some x) (hr : degradeReason new = some reason) (hs : x.run.state = .degraded) :
    s.handOff z new = s.changeDegraded z reason := by
  cases new with
  | evaluable | absorbed => cases hr
  | headLost | boundaryOverflow => cases hr; simp only [State.handOff, hx, hs]

theorem State.handOff_returns (hx : s.zone? z = some x) (hs : x.run.state = .absorbed) :
    s.handOff z .evaluable = s.restoreAbsorbed z := by
  simp only [State.handOff, hx, hs]

theorem State.handOff_restores (hx : s.zone? z = some x) (hs : x.run.state = .degraded) :
    s.handOff z .evaluable = s.restoreDegraded z := by
  simp only [State.handOff, hx, hs]

theorem State.handOff_unmoved (hx : s.zone? z = some x) (h : x.run.state = .absorbed ∧ new = .absorbed
    ∨ (x.run.state = .normal ∨ x.run.state = .suspect) ∧ new = .evaluable) : s.handOff z new = s := by
  obtain ⟨hs, rfl⟩ | ⟨hs | hs, rfl⟩ := h <;> simp only [State.handOff, hx, hs]

theorem State.handOff_handsOff (hx : s.zone? z = some x) (new : Evaluability) : HandsOff s z x new (s.handOff z new) := by
  by_cases ht : x.isTripped = true
  · rw [State.handOff_of_tripped hx ht]
    exact .held ht
  have hs : x.run.state = .normal ∨ x.run.state = .suspect ∨ x.run.state = .absorbed ∨ x.run.state = .degraded := by
    rw [Zone.isTripped_iff] at ht
    cases hs : x.run.state <;> simp_all
  cases hr : degradeReason new with
  | some reason =>
    obtain hs | hs | hs | hs := hs
    · rw [State.handOff_degrades hx hr (.inl hs)]; exact .degrades hr (.inl hs)
    · rw [State.handOff_degrades hx hr (.inr (.inl hs))]; exact .degrades hr (.inr (.inl hs))
    · rw [State.handOff_degrades hx hr (.inr (.inr hs))]; exact .degrades hr (.inr (.inr hs))
    · rw [State.handOff_changes hx hr hs]; exact .changes hr hs
  | none =>
    cases new with
    | headLost | boundaryOverflow => cases hr
    | evaluable =>
      obtain hs | hs | hs | hs := hs
      · rw [State.handOff_unmoved hx (.inr ⟨.inl hs, rfl⟩)]; exact .unmoved (.inr ⟨.inl hs, rfl⟩)
      · rw [State.handOff_unmoved hx (.inr ⟨.inr hs, rfl⟩)]; exact .unmoved (.inr ⟨.inr hs, rfl⟩)
      · rw [State.handOff_returns hx hs]; exact .returns hs rfl
      · rw [State.handOff_restores hx hs]; exact .restores hs rfl
    | absorbed =>
      obtain hs | hs | hs | hs := hs
      · rw [State.handOff_absorbs hx (.inl hs)]; exact .absorbs (.inl hs) rfl
      · rw [State.handOff_absorbs hx (.inr (.inl hs))]; exact .absorbs (.inr (.inl hs)) rfl
      · rw [State.handOff_unmoved hx (.inl ⟨hs, rfl⟩)]; exact .unmoved (.inl ⟨hs, rfl⟩)
      · rw [State.handOff_absorbs hx (.inr (.inr hs))]; exact .absorbs (.inr (.inr hs)) rfl

end

section
variable {s t : State} {z : Nat} {x : Zone} {r : NodeRec} {new : Evaluability} {reason : Reason}

/-- An event on zone `z` whose one write of the verdict queue is a raise of `kind`, at its end. -/
def Raises (s : State) (z : Nat) (kind : VerdictKind) (t : State) : Prop :=
  ∃ u, s.OutsideZones u ∧ u.verdicts = s.verdicts ∧ t = u.raise z kind

/-- Such an event raises the snapshot of what it makes of the zone. -/
theorem Raises.verdicts {kind : VerdictKind} {y : Zone} (h : Raises s z kind t) (hr : s.active.position? z = some r)
    (hy : t.zone? z = some y) : t.verdicts = raiseInto (verdictEntry s.now z r y kind) s.verdicts := by
  obtain ⟨u, ho, hv, rfl⟩ := h
  rw [State.raise_of_some (s := u) kind (ho.active ▸ hr) hy, ho.now, hv]

theorem Raises.entry {kind : VerdictKind} {y : Zone} (h : Raises s z kind t) (hr : s.active.position? z = some r)
    (hy : t.zone? z = some y) :
    ∃ v ∈ t.verdicts, ∃ old, v = { verdictEntry s.now z r y kind with history := old ||| kind.bit } := by
  rw [h.verdicts hr hy]
  exact mem_raiseInto_self _ _

theorem State.abandonProof_verdicts (s : State) (z : Nat) : (s.abandonProof z).verdicts = s.verdicts := by
  rw [State.abandonProof_eq]

theorem State.enterAbsorbed_raises (s : State) (z : Nat) : Raises s z .absorbed (s.enterAbsorbed z) :=
  ⟨_, (s.modZone_outside z _).trans (State.abandonProof_outside _ z), State.abandonProof_verdicts _ z, rfl⟩

theorem State.enterDegraded_raises (s : State) (z : Nat) (reason : Reason) :
    Raises s z .degraded (s.enterDegraded z reason) :=
  ⟨_, (s.modRun_outside z _).trans (State.abandonProof_outside _ z), State.abandonProof_verdicts _ z, rfl⟩

theorem State.changeDegraded_raises (s : State) (z : Nat) (reason : Reason) :
    Raises s z .degraded (s.changeDegraded z reason) := ⟨_, s.modRun_outside z _, rfl, rfl⟩

theorem State.restoreAbsorbed_raises (s : State) (z : Nat) : Raises s z .restored (s.restoreAbsorbed z) :=
  ⟨_, s.modZone_outside z _, rfl, rfl⟩

theorem State.enterSuspect_verdicts (s : State) (z : Nat) : (s.enterSuspect z).verdicts = s.verdicts := by
  rw [State.enterSuspect, State.raiseTrigger_frame]
  rfl

theorem State.restoreDegraded_raises (s : State) (z : Nat) : Raises s z .restored (s.restoreDegraded z) := by
  unfold State.restoreDegraded
  dsimp only
  split
  · exact ⟨_, (s.modRun_outside z _).trans (State.enterSuspect_outside _ z), State.enterSuspect_verdicts _ z, rfl⟩
  · exact ⟨_, (s.modRun_outside z _).trans (State.modRun_outside _ z _), rfl, rfl⟩

/-! ## Proof and capture -/

theorem State.enterAbsorbed_proof (s : State) (z : Nat) : (s.enterAbsorbed z).proof = (s.abandonProof z).proof :=
  State.abandonProof_proof_congr (s := s) (t := s.modZone z _) rfl

theorem State.enterDegraded_proof (s : State) (z : Nat) (reason : Reason) :
    (s.enterDegraded z reason).proof = (s.abandonProof z).proof :=
  State.abandonProof_proof_congr (s := s) (t := s.modRun z _) rfl

theorem State.restoreDegraded_proof (s : State) (z : Nat) : (s.restoreDegraded z).proof = s.proof := by
  unfold State.restoreDegraded
  dsimp only
  split
  · exact State.raiseTrigger_proof _ _ _ _
  · rfl

theorem State.abandonProof_capture (s : State) (z : Nat) :
    (s.abandonProof z).slots = s.slots ∧ (s.abandonProof z).missed = s.missed := by
  rw [State.abandonProof_eq]
  exact ⟨rfl, rfl⟩

/-- A hand-off ends the proof of its zone where it is absorbed or degraded, from a state that holds no trip. -/
theorem HandsOff.proof (h : HandsOff s z x new t) : t.proof = s.proof ∨ t.proof = (s.abandonProof z).proof
    ∧ x.isTripped = false ∧ new ≠ .evaluable := by
  have hnot {reason : Reason} (hr : degradeReason new = some reason) : new ≠ .evaluable := by rintro rfl; cases hr
  cases h with
  | held | unmoved | changes | returns => exact .inl rfl
  | absorbs hs hn =>
    refine .inr ⟨s.enterAbsorbed_proof z, ?_, by simp [hn]⟩
    obtain hs | hs | hs := hs <;> simp [Zone.isTripped, hs]
  | degrades hr hs =>
    refine .inr ⟨s.enterDegraded_proof z _, ?_, hnot hr⟩
    obtain hs | hs | hs := hs <;> simp [Zone.isTripped, hs]
  | restores => exact .inl (s.restoreDegraded_proof z)

theorem State.restoreDegraded_of_held (hx : s.zone? z = some x) (h : (s.profile z).tSuspect ≤ x.eval.evidence) :
    s.restoreDegraded z = ((s.modRun z fun r => { r with graceDeadline := none }).enterSuspect z).raise z .restored := by
  simp [State.restoreDegraded, hx, h]

/-- The capture unit is asked at a restore into SUSPECT, and at no other hand-off (R87, R142). -/
theorem HandsOff.capture (h : HandsOff s z x new t) (hx : s.zone? z = some x)
    (hnot : x.run.state ≠ .degraded ∨ new ≠ .evaluable ∨ x.eval.evidence < (s.profile z).tSuspect) :
    t.slots = s.slots ∧ t.missed = s.missed := by
  cases h with
  | held | unmoved | changes | returns => exact ⟨rfl, rfl⟩
  | absorbs => exact State.abandonProof_capture (s.modZone z _) z
  | degrades => exact State.abandonProof_capture (s.modRun z _) z
  | restores hs hn =>
    have hlow : ¬(s.profile z).tSuspect ≤ x.eval.evidence :=
      Nat.not_le.mpr ((hnot.resolve_left (· hs)).resolve_left (· hn))
    simp [State.restoreDegraded, hx, hlow]

theorem State.restoreDegraded_capture (hx : s.zone? z = some x) (hr : s.active.position? z = some r)
    (h : (s.profile z).tSuspect ≤ x.eval.evidence) :
    (s.restoreDegraded z).slots = (s.raiseTrigger r.feeder .suspect (some z)).slots
      ∧ (s.restoreDegraded z).missed = (s.raiseTrigger r.feeder .suspect (some z)).missed := by
  have hfeeder : State.feederOf (s.modRun z fun r => { r with graceDeadline := none }) z = r.feeder :=
    State.feederOf_of_position? (s := s) hr
  rw [State.restoreDegraded_of_held hx h]
  simp only [State.enterSuspect, hfeeder, State.raise_slots, State.raise_missed, State.raiseTrigger_slots_modRun, and_self]

end

/-- Settles O29: the event that the hand-off is, by the zone's state and the new evaluability, and what it writes. -/
theorem handOffMovesTheZone : Obligations.HandOffMovesTheZone := by
  intro s t z x r new hx hr ht
  have h := State.handOff_handsOff hx new
  rw [← ht] at h
  have houtside : s.OutsideZones t := ht ▸ s.handOff_outside z new
  refine ⟨fun htrip => ?held, fun hn1 hn2 hn3 hnew => ?absorbed, fun reason hreason hs => ?degraded,
    fun reason hreason hs => ?changed, fun hs hnew => ?returned, fun hs hnew => ?restored, houtside,
    ht ▸ s.handOff_lines z new, ht ▸ s.handOff_keeps z new, fun hother => ?stands, fun g hp htarget hk hg hs hnew => ?abandoned,
    fun hs hnew hheld => ?asked, fun hnot => h.capture hx hnot⟩
  case held => rw [ht, State.handOff_of_tripped hx htrip]
  case absorbed =>
    have hs : x.run.state = .normal ∨ x.run.state = .suspect ∨ x.run.state = .degraded := by
      cases hs : x.run.state <;> simp_all
    rw [ht, hnew, State.handOff_absorbs hx hs]
    have hz := (s.zone?_enterAbsorbed z z).trans (by rw [if_pos rfl, hx, Option.map_some])
    obtain ⟨v, hv, old, rfl⟩ := (s.enterAbsorbed_raises z).entry hr hz
    exact ⟨hz, _, hv, rfl, rfl⟩
  case degraded =>
    rw [ht, State.handOff_degrades hx hreason hs]
    have hz := (s.zone?_enterDegraded z z reason).trans (by rw [if_pos rfl, hx, Option.map_some])
    obtain ⟨v, hv, old, rfl⟩ := (s.enterDegraded_raises z reason).entry hr hz
    refine ⟨hz.trans ?_, _, hv, rfl, rfl, rfl⟩
    cases hloss : (s.profile z).lossAction <;> simp [ZoneRecord.toDegraded, hloss]
  case changed =>
    rw [ht, State.handOff_changes hx hreason hs]
    have hz := (s.zone?_changeDegraded z z reason).trans (by rw [if_pos rfl, hx, Option.map_some])
    obtain ⟨v, hv, old, rfl⟩ := (s.changeDegraded_raises z reason).entry hr hz
    exact ⟨hz, _, hv, rfl, rfl, rfl⟩
  case returned =>
    rw [ht, hnew, State.handOff_returns hx hs]
    have hz := (s.zone?_restoreAbsorbed z z).trans (by rw [if_pos rfl, hx, Option.map_some])
    obtain ⟨v, hv, old, rfl⟩ := (s.restoreAbsorbed_raises z).entry hr hz
    exact ⟨hz, _, hv, rfl, rfl⟩
  case restored =>
    rw [ht, hnew, State.handOff_restores hx hs]
    have hz := (State.zone?_restoreDegraded hx z).trans (if_pos rfl)
    obtain ⟨v, hv, old, rfl⟩ := (s.restoreDegraded_raises z).entry hr hz
    exact ⟨hz, _, hv, rfl, rfl⟩
  case stands =>
    obtain h | ⟨h, -, hne⟩ := h.proof
    · exact h
    · rw [h, State.abandonProof_of_other (hother.imp_right (·.resolve_right hne))]
  case abandoned =>
    rw [← State.completeProof_proof hk hg, ← State.abandonProof_of_pending hp htarget]
    cases hreason : degradeReason new with
    | some reason =>
      rw [ht, State.handOff_degrades hx hreason (hs.imp_right .inl)]
      exact s.enterDegraded_proof z reason
    | none =>
      have habsorbed : new = .absorbed := by cases new <;> simp_all [degradeReason]
      rw [ht, habsorbed, State.handOff_absorbs hx (hs.imp_right .inl)]
      exact s.enterAbsorbed_proof z
  case asked =>
    rw [ht, hnew, State.handOff_restores hx hs]
    exact State.restoreDegraded_capture hx hr hheld

end Sys2Proof.Machine

/-!
The recomputation of a feeder (R12, R14, R15), the silence expiry (R13, R28 to R30, R75), and the commands on nodes (R31 to R34).
-/

namespace Sys2Proof.Machine

/-! ## The recomputation (R12, R14, R15) -/

theorem sameSet_iff {xs ys : List Nat} : sameSet xs ys = true ↔ ∀ n, n ∈ xs ↔ n ∈ ys := by
  simp only [sameSet, Bool.and_eq_true, List.all_eq_true, decide_eq_true_eq]
  exact ⟨fun ⟨h, k⟩ n => ⟨h n, k n⟩, fun h => ⟨fun n => (h n).mp, fun n => (h n).mpr⟩⟩

theorem sourcesChanged_iff {old new : Topology} : sourcesChanged old new = true
    ↔ old.source ≠ new.source ∨ ¬∀ n, n ∈ old.list.map (·.source) ↔ n ∈ new.list.map (·.source) := by
  rw [sourcesChanged, Bool.or_eq_true, decide_eq_true_eq, Bool.not_eq_true', ← Bool.not_eq_true, sameSet_iff]
  rfl

theorem Tables.zonesOf_ascending (t : Tables) (f : Fin 4) : (t.zonesOf f).Pairwise (· < ·) := List.pairwise_lt_range.filter _

section
variable {s : State} {f : Fin 4} {z : Nat} {new : Evaluability}

theorem State.mem_handOffs : (z, new) ∈ s.handOffs f ↔ z ∈ s.active.zonesOf f ∧ new = (s.newTopology z).evaluability
    ∧ ∃ x, s.zone? z = some x ∧ x.topo.evaluability ≠ new := by
  simp only [State.handOffs, List.mem_filterMap, Option.bind_eq_some_iff, Option.ite_none_left_eq_some, Option.some.injEq,
    Prod.mk.injEq]
  constructor
  · rintro ⟨y, hy, x, hx, hne, rfl, rfl⟩
    exact ⟨hy, rfl, x, hx, hne⟩
  · rintro ⟨hz, rfl, x, hx, hne⟩
    exact ⟨z, hz, x, hx, hne, rfl, rfl⟩

theorem State.handOffs_ascending (s : State) (f : Fin 4) : ((s.handOffs f).map Prod.fst).Pairwise (· < ·) := by
  rw [List.pairwise_map, State.handOffs, List.pairwise_filterMap]
  refine (s.active.zonesOf_ascending f).imp fun {y z} hyz off hoff off' hoff' => ?_
  obtain ⟨_, -, h⟩ := Option.bind_eq_some_iff.mp hoff
  obtain ⟨_, -, h'⟩ := Option.bind_eq_some_iff.mp hoff'
  obtain ⟨-, h⟩ := Option.ite_none_left_eq_some.mp h
  obtain ⟨-, h'⟩ := Option.ite_none_left_eq_some.mp h'
  cases h
  cases h'
  exact hyz

end

/-! ## What hand-offs and recomputations make of a zone -/

/-- The zone after a hand-off of `new` (R91, R96, R97, R99). -/
def Zone.handedOff (x : Zone) (now : Time) (p : ZoneProfile) (new : Evaluability) : Zone :=
  if x.isTripped then x
  else match degradeReason new with
    | some reason => { x with run :=
        if x.run.state = .degraded then { x.run with reason := some reason } else x.run.toDegraded now p reason }
    | none =>
      match new, x.run.state with
      | .absorbed, .absorbed => x
      | .absorbed, _ => { x with run := x.run.toAbsorbed, eval := { x.eval with evidence := 0 } }
      | _, .absorbed => { x with run := { x.run with state := .normal, reason := none }, eval := x.eval.markReseed }
      | _, .degraded => { x with run :=
          if p.tSuspect ≤ x.eval.evidence then { x.run with graceDeadline := none }.toSuspect now p
          else { x.run with graceDeadline := none, state := .normal, reason := none } }
      | _, _ => x

/-- The zone after a recomputation, at its new topology record (R12, R14, R15). -/
def Zone.recomputed (x : Zone) (now : Time) (p : ZoneProfile) (new : Topology) : Zone :=
  if x.topo.evaluability = new.evaluability then x.withTopology new
  else (x.withTopology new).handedOff now p new.evaluability

/-- What every hand-off and every recomputation keeps of a zone: its trips, and its evaluation record but for evidence and
reseed marks. -/
structure Zone.Carries (x y : Zone) : Prop where
  trips : y.run.trips = x.run.trips
  memory : y.run.memoryDeadline = x.run.memoryDeadline
  eval : y.eval = { x.eval with evidence := y.eval.evidence, perPhase := y.eval.perPhase }
  phase : ∀ ph, y.eval.perPhase.get ph = { x.eval.perPhase.get ph with reseed := (y.eval.perPhase.get ph).reseed }
  reseed : ∀ ph, (x.eval.perPhase.get ph).reseed = true → (y.eval.perPhase.get ph).reseed = true

section
variable {s t : State} {z : Nat} {x : Zone} {new : Evaluability}

theorem Zone.handedOff_of_degrades {now : Time} {p : ZoneProfile} {reason : Reason} (ht : x.isTripped = false)
    (hr : degradeReason new = some reason) : x.handedOff now p new = { x with run :=
      if x.run.state = .degraded then { x.run with reason := some reason } else x.run.toDegraded now p reason } := by
  simp [Zone.handedOff, ht, hr]

theorem Zone.isTripped_eq_false {x : Zone} (h : x.run.state ≠ .tripped) (k : x.run.state ≠ .lockout) : x.isTripped = false :=
  decide_eq_false fun hs => hs.elim h k

/-- A hand-off reads and writes one zone, as the engine time and the zone's active profile say. -/
theorem HandsOff.zone (h : HandsOff s z x new t) (hx : s.zone? z = some x) :
    t.zone? z = some (x.handedOff s.now (s.profile z) new) := by
  cases h with
  | held ht => simp [Zone.handedOff, ht, hx]
  | unmoved h => obtain ⟨hs, rfl⟩ | ⟨hs | hs, rfl⟩ := h <;> simp [Zone.handedOff, Zone.isTripped, degradeReason, hs, hx]
  | absorbs hs hn =>
    subst hn
    rw [s.zone?_enterAbsorbed z z, if_pos rfl, hx, Option.map_some]
    obtain hs | hs | hs := hs <;> simp [Zone.handedOff, Zone.isTripped, degradeReason, hs]
  | degrades hr hs =>
    rw [s.zone?_enterDegraded z z, if_pos rfl, hx, Option.map_some, Zone.handedOff_of_degrades _ hr]
    · rw [if_neg]
      obtain hs | hs | hs := hs <;> simp [hs]
    · obtain hs | hs | hs := hs <;> simp [Zone.isTripped, hs]
  | changes hr hs =>
    rw [s.zone?_changeDegraded z z, if_pos rfl, hx, Option.map_some, Zone.handedOff_of_degrades _ hr, if_pos hs]
    simp [Zone.isTripped, hs]
  | returns hs hn =>
    subst hn
    rw [s.zone?_restoreAbsorbed z z, if_pos rfl, hx, Option.map_some]
    simp [Zone.handedOff, Zone.isTripped, degradeReason, hs]
  | restores hs hn =>
    subst hn
    rw [State.zone?_restoreDegraded hx, if_pos rfl]
    simp [Zone.handedOff, Zone.isTripped, degradeReason, hs]

theorem State.zone?_handOff (s : State) (z : Nat) (new : Evaluability) (y : Nat) : (s.handOff z new).zone? y
    = if y = z then (s.zone? y).map fun x => x.handedOff s.now (s.profile z) new else s.zone? y := by
  split
  · rename_i hy
    subst hy
    cases hx : s.zone? y with
    | none => simp [State.handOff, hx]
    | some x => exact (State.handOff_handsOff hx new).zone hx
  · exact s.handOff_keeps z new y ‹_›

theorem Zone.Carries.refl (x : Zone) : x.Carries x := ⟨rfl, rfl, rfl, fun _ => rfl, fun _ => id⟩

theorem Zone.Carries.trans {x y w : Zone} (h : x.Carries y) (k : y.Carries w) : x.Carries w where
  trips := k.trips.trans h.trips
  memory := k.memory.trans h.memory
  eval := by rw [k.eval, h.eval]
  phase ph := by rw [k.phase ph, h.phase ph]
  reseed ph hx := k.reseed ph (h.reseed ph hx)

theorem Zone.carries_of_eval {x y : Zone} (ht : y.run.trips = x.run.trips) (hm : y.run.memoryDeadline = x.run.memoryDeadline)
    (he : y.eval = x.eval) : x.Carries y :=
  ⟨ht, hm, by rw [he], fun _ => by rw [he], fun _ => by rw [he]; exact id⟩

theorem Zone.carries_markReseed {x y : Zone} (ht : y.run.trips = x.run.trips)
    (hm : y.run.memoryDeadline = x.run.memoryDeadline) (he : y.eval = x.eval.markReseed) : x.Carries y where
  trips := ht
  memory := hm
  eval := by rw [he]; rfl
  phase ph := by rw [he]; simp [Evaluation.markReseed]
  reseed ph _ := by rw [he]; simp [Evaluation.markReseed]

theorem Zone.carries_withTopology (x : Zone) (new : Topology) : x.Carries (x.withTopology new) := by
  unfold Zone.withTopology
  split
  · exact Zone.carries_markReseed rfl rfl rfl
  · exact Zone.carries_of_eval rfl rfl rfl

theorem Zone.carries_handedOff (x : Zone) (now : Time) (p : ZoneProfile) (new : Evaluability) :
    x.Carries (x.handedOff now p new) := by
  unfold Zone.handedOff
  split
  · exact .refl x
  · split
    · refine Zone.carries_of_eval ?_ ?_ rfl <;> dsimp only <;> split <;> rfl
    · split
      · exact .refl x
      · exact ⟨rfl, rfl, rfl, fun _ => rfl, fun _ => id⟩
      · exact Zone.carries_markReseed rfl rfl rfl
      · refine Zone.carries_of_eval ?_ ?_ rfl <;> dsimp only <;> split <;> rfl
      · exact .refl x

theorem Zone.carries_recomputed (x : Zone) (now : Time) (p : ZoneProfile) (new : Topology) :
    x.Carries (x.recomputed now p new) := by
  unfold Zone.recomputed
  split
  · exact x.carries_withTopology new
  · exact (x.carries_withTopology new).trans (Zone.carries_handedOff _ now p _)

end

section
variable {s : State} {f : Fin 4}

theorem State.profile_congr {s t : State} (h : s.OutsideZones t) (z : Nat) : t.profile z = s.profile z := by
  simp only [State.profile, State.profileNumber, h.active, h.feeders]

/-- Hand-offs of distinct zones, each as it would be alone. -/
theorem State.zone?_foldl_handOff {offs : List (Nat × Evaluability)} (h : (offs.map Prod.fst).Nodup) (s : State) (y : Nat) :
    (offs.foldl (fun t off => t.handOff off.1 off.2) s).zone? y = match offs.find? fun off => decide (off.1 = y) with
      | some off => (s.zone? y).map fun x => x.handedOff s.now (s.profile y) off.2
      | none => s.zone? y := by
  induction offs generalizing s with
  | nil => rfl
  | cons off offs ih =>
    obtain ⟨hoff, hoffs⟩ := List.nodup_cons.mp h
    have ho := s.handOff_outside off.1 off.2
    rw [List.foldl_cons, ih hoffs, State.zone?_handOff, State.profile_congr ho, ho.now]
    by_cases hy : off.1 = y
    · subst hy
      have hnone : offs.find? (fun o => decide (o.1 = off.1)) = none :=
        List.find?_eq_none.mpr fun o ho' h => hoff (List.mem_map.mpr ⟨o, ho', by simpa using h⟩)
      simp [hnone]
    · simp [hy, Ne.symm hy]

/-- A recomputation, zone by zone. -/
theorem State.zone?_recompute (s : State) (f : Fin 4) (y : Nat) : (s.recompute f).zone? y
    = if y ∈ s.active.zonesOf f then (s.zone? y).map fun x => x.recomputed s.now (s.profile y) (s.newTopology y)
      else s.zone? y := by
  have hnodup : ((s.handOffs f).map Prod.fst).Nodup := (s.handOffs_ascending f).imp Nat.ne_of_lt
  have hprofile : (s.replaceTopology f).profile y = s.profile y := State.profile_congr (s.replaceTopology_outside f) y
  rw [State.recompute, State.zone?_foldl_handOff hnodup, State.zone?_replaceTopology, State.replaceTopology_now, hprofile]
  cases hfound : (s.handOffs f).find? fun off => decide (off.1 = y) with
  | some off =>
    obtain ⟨y', new⟩ := off
    obtain rfl : y' = y := of_decide_eq_true (List.find?_some (p := fun off : Nat × Evaluability => decide (off.1 = y)) hfound)
    obtain ⟨hy, rfl, x, hx, hne⟩ := State.mem_handOffs.mp (List.mem_of_find?_eq_some hfound)
    simp only [if_pos hy, hx, Option.map_some, Zone.recomputed, if_neg hne]
  | none =>
    by_cases hy : y ∈ s.active.zonesOf f
    · simp only [if_pos hy]
      cases hx : s.zone? y with
      | none => rfl
      | some x =>
        have hsame : x.topo.evaluability = (s.newTopology y).evaluability := by
          by_contra hne
          exact absurd (decide_eq_true rfl)
            (List.find?_eq_none.mp hfound _ (State.mem_handOffs.mpr ⟨hy, rfl, x, hx, hne⟩))
        simp only [Option.map_some, Zone.recomputed, if_pos hsame]
    · simp only [if_neg hy]

/-- A recomputation tells the proof unit at most the end of a zone proof (R100). -/
theorem State.recompute_proof (h : s.proof.state ≠ .zonePending) (f : Fin 4) : (s.recompute f).proof = s.proof := by
  have hoffs (offs : List (Nat × Evaluability)) : ∀ t : State, t.proof = s.proof →
      (offs.foldl (fun t off => t.handOff off.1 off.2) t).proof = s.proof := by
    induction offs with
    | nil => exact fun _ ht => ht
    | cons off offs ih =>
      refine fun t ht => ih _ ?_
      cases hx : t.zone? off.1 with
      | none => simp only [State.handOff, hx]; exact ht
      | some x =>
        obtain hp | ⟨hp, -, -⟩ := (State.handOff_handsOff hx off.2).proof
        · exact hp.trans ht
        · rw [hp, State.abandonProof_of_other (.inl (ht ▸ h))]
          exact ht
  exact hoffs _ _ rfl

end

/-- Settles O27: the records are replaced, then the zones whose evaluability differs are handed off. -/
theorem recomputationReplacesMarksAndHandsOff : Obligations.RecomputationReplacesMarksAndHandsOff := by
  intro s f
  refine ⟨s.recompute_outside f, s.replaceTopology f, s.handOffs f, rfl, s.handOffs_ascending f,
    fun z new => State.mem_handOffs, rfl, fun z hz => ?_, fun z x new hz hx hnew => ⟨fun hsource hset => ?_, fun hchanged => ?_⟩⟩
  · rw [State.zone?_replaceTopology, if_neg hz]
  · have hsame : sourcesChanged x.topo new = false :=
      Bool.eq_false_iff.mpr fun h => (sourcesChanged_iff.mp h).elim (· hsource) (· hset)
    rw [State.zone?_replaceTopology, if_pos hz, hx, Option.map_some, State.newTopology, ← hnew, Zone.withTopology, hsame]
    rfl
  · rw [State.zone?_replaceTopology, if_pos hz, hx, Option.map_some, State.newTopology, ← hnew, Zone.withTopology,
      sourcesChanged_iff.mpr hchanged]
    rfl

/-! ## SILENCE_EXPIRY (R13, R28, R75) -/

/-- A zone with its loss record set (R75). -/
def Zone.noted (x : Zone) (deadline : Time) : Zone := { x with eval := { x.eval with lossRecord := some deadline } }

theorem State.foldl_noteLoss (zs : List Nat) (s : State) : zs.foldl State.noteLoss s = { s with
    zones := zs.foldl (fun xs z => xs.modify z (Option.map fun x => x.noted (after s.now (s.profile z).lossWindow)))
      s.zones } := by
  induction zs generalizing s with
  | nil => rfl
  | cons z zs ih => rw [List.foldl_cons, ih, List.foldl_cons]; rfl

theorem State.lossNotices_eq (s : State) (f : Fin 4) (i : Nat) :
    s.lossNotices f i = { s with zones := (s.lossNotices f i).zones } := by
  simp only [State.lossNotices, State.foldl_noteLoss]

/-- The loss notices of a node, zone by zone (R13, R75). -/
theorem State.zone?_lossNotices (s : State) (f : Fin 4) (i : Nat) {z : Nat} {x : Zone} (hx : s.zone? z = some x) :
    (s.lossNotices f i).zone? z = some (if z ∈ s.active.zonesOf f ∧ i ∈ x.topo.sources
      then x.noted (after s.now (s.profile z).lossWindow) else x) := by
  have hnodup := (s.active.zonesOf_nodup f).filter fun z => (s.zone? z).any fun x => decide (i ∈ x.topo.sources)
  have hget := foldl_modify_get (fun z x => Zone.noted x (after s.now (s.profile z).lossWindow)) _ hnodup s.zones z
  have hx' : (s.zones[z]?).join = some x := hx
  rw [hx'] at hget
  have hmem : z ∈ (s.active.zonesOf f).filter (fun z => (s.zone? z).any fun x => decide (i ∈ x.topo.sources))
      ↔ z ∈ s.active.zonesOf f ∧ i ∈ x.topo.sources := by
    simp [List.mem_filter, hx]
  rw [State.lossNotices, State.foldl_noteLoss]
  refine hget.trans ?_
  simp only [hmem]
  split <;> rfl

section
variable {s : State} {i : Nat} {r : NodeRec} {n m : NodeRun} {silences : Nat} {hit : Bool}

/-- The record after a silence expiry: SILENT and counted, or BARRED where the count reached its threshold (R28 to R30). -/
theorem NodeRun.toSilent_checked {p : ChannelProfile} (hsilences : silences = min 65535 (n.health.silences + 1))
    (hhit : hit = decide (p.thresholds.silences ≠ 0 ∧ p.thresholds.silences ≤ silences)) :
    n.toSilent.checked r.autoBar (reachesThreshold p.thresholds.silences n.toSilent.health.silences) = { n with
      state := if hit && r.autoBar then .barred else .silent
      barReason := if hit && r.autoBar then some .health else n.barReason
      seqExpect := none
      silenceDeadline := none
      health := { n.health with silences := silences }
      exceeded := n.exceeded || hit } := by
  have hreached : reachesThreshold p.thresholds.silences n.toSilent.health.silences = hit := by
    rw [hhit, hsilences]
    rfl
  subst hsilences
  rw [hreached]
  cases hit <;> cases hbar : r.autoBar <;> simp [NodeRun.checked, NodeRun.toSilent, NodeRun.toBarred, satAdd]

theorem execSilenceExpiry_of_due (hr : s.active.node? i = some r) (hn : s.node? i = some n)
    (hdue : due s.now n.silenceDeadline = true) (hs : n.state = .warming ∨ n.state = .live) :
    execSilenceExpiry i s = .next (s.fallSilent i r n).flushHeld := by
  simp only [execSilenceExpiry, hr, hn, hdue, hs, and_self, if_true]

end

/-- Settles O22: the record first, then the loss notices, then the recomputation. -/
theorem silenceExpiryLosesTheUnit : Obligations.SilenceExpiryLosesTheUnit := by
  intro s i r n m silences hit hr hn hsilences hhit hm
  have hrecord := (NodeRun.toSilent_checked (r := r) hsilences hhit).trans hm.symm
  have hlive (hdue : due s.now n.silenceDeadline = true) (hs : n.state = .live) : exec (.silenceExpiry i) s
      = .next ((((s.setNode i m).lossNotices r.feeder i).recompute r.feeder).flushHeld) := by
    refine (execSilenceExpiry_of_due hr hn hdue (.inr hs)).trans ?_
    have hl : n.isLive = true := decide_eq_true hs
    simp only [State.fallSilent, hrecord, hl, if_true]
  refine ⟨fun hdue hs hflush => ?_, fun hdue hs => ?_, fun hdue hs hp hflush => ?_, fun hnot => ?_⟩
  · refine (execSilenceExpiry_of_due hr hn hdue (.inl hs)).trans (congrArg _ ?_)
    have hl : n.isLive = false := NodeRun.isLive_eq_false (by simp [hs])
    simp only [State.fallSilent, hrecord, hl, Bool.false_eq_true, if_false]
    exact State.flushHeld_of_canFlush hflush
  · exact ⟨(s.setNode i m).lossNotices r.feeder i, State.lossNotices_eq _ _ _,
      fun z x hx => State.zone?_lossNotices (s.setNode i m) r.feeder i hx, hlive hdue hs⟩
  · have hnotices := State.lossNotices_outside (s.setNode i m) r.feeder i
    have ho := hnotices.trans (State.recompute_outside _ r.feeder)
    have hproof : ((s.setNode i m).lossNotices r.feeder i).proof = s.proof := by rw [State.lossNotices_eq]; rfl
    have hproof' := (State.recompute_proof (by rwa [hproof]) r.feeder).trans hproof
    have hnone : ((((s.setNode i m).lossNotices r.feeder i).recompute r.feeder)).canFlush = false := by
      rw [State.canFlush, hproof', ho.replies]
      exact hflush
    rw [State.flushHeld_of_canFlush hnone] at hlive
    refine ⟨_, hlive hdue hs, ho, fun z x hx => ?_⟩
    obtain ⟨y, hy, hnoted⟩ : ∃ y, ((s.setNode i m).lossNotices r.feeder i).zone? z = some y
        ∧ y.eval.lossRecord = if z ∈ s.active.zonesOf r.feeder ∧ i ∈ x.topo.sources
            then some (after s.now (s.profile z).lossWindow) else x.eval.lossRecord := by
      refine ⟨_, State.zone?_lossNotices (s.setNode i m) r.feeder i (z := z) hx, ?_⟩
      by_cases hc : z ∈ s.active.zonesOf r.feeder ∧ i ∈ x.topo.sources
      · rw [if_pos hc]
        exact congrArg (fun w : Zone => w.eval.lossRecord) (if_pos hc)
      · rw [if_neg hc]
        exact congrArg (fun w : Zone => w.eval.lossRecord) (if_neg hc)
    rw [State.zone?_recompute, hy]
    split
    · refine ⟨_, rfl, ?_⟩
      rw [(Zone.carries_recomputed _ _ _ _).eval]
      exact hnoted
    · exact ⟨y, rfl, hnoted⟩
  · have hguard : ¬(due s.now n.silenceDeadline = true ∧ (n.state = .warming ∨ n.state = .live)) := by simp [hnot]
    simp only [exec, execSilenceExpiry, hr, hn, hguard, if_false]

/-! ## Commands on a node (R31 to R34) -/

section
variable {s : State} {tag i : Byte} {r : NodeRec} {n : NodeRun}

theorem execAdmitNode_of_state (htake : s.CanTake) (hrun : s.engine = .running) (hi : i.toNat < 48)
    (hr : s.active.node? i.toNat = some r) (hn : s.node? i.toNat = some n)
    (hs : n.state = .barred ∨ (n.state = .silent ∧ r.autoReturn = false)) :
    execAdmitNode tag [i] s = .next ((s.setNode i.toNat n.admitted).answer 0x24 tag .done []) :=
  answered htake ((onNode_of_some _ hrun hi hr hn).trans (if_pos (by simpa using hs))) rfl

theorem execBarNode_of_state (htake : s.CanTake) (hrun : s.engine = .running) (hi : i.toNat < 48)
    (hr : s.active.node? i.toNat = some r) (hn : s.node? i.toNat = some n) (hs : n.state ≠ .barred) :
    execBarNode tag [i] s = .next
      ((s.changeNode i.toNat r.feeder n (n.toBarred .command)).answer 0x23 tag .done []).flushHeld := by
  refine congrArg Host.Outcome.next ((State.takeCommand_of_room htake.1 ..).trans ?_)
  rw [(onNode_of_some _ hrun hi hr hn).trans (if_neg hs)]
  rfl

end

theorem State.OutsideZones.answer {s t : State} (h : s.OutsideZones t) (code tag : Byte) (status : Status)
    (data : List Byte) : (s.answer code tag status data).OutsideZones (t.answer code tag status data) :=
  { h with replies := congrArg (· ++ _) h.replies }

/-- Settles O44: by the node's state, the feeder recomputed where the node was LIVE. -/
theorem nodeCommandsMoveTheNode : Obligations.NodeCommandsMoveTheNode := by
  intro s tag i r n m htake hrun hi hr hn hm
  have hrecord : n.toBarred .command = m := hm.symm
  have hbar (hs : n.state = .live) : exec (.barNode tag [i]) s
      = .next ((((s.setNode i.toNat m).recompute r.feeder).answer 0x23 tag .done []).flushHeld) := by
    refine (execBarNode_of_state htake hrun hi hr hn (by simp [hs])).trans ?_
    rw [hrecord, State.changeNode_of_isLive_ne (by simp [NodeRun.isLive, hm, hs])]
  refine ⟨?_, fun hs => execAdmitNode_of_state htake hrun hi hr hn hs, fun hs hsilent => ?_, fun hs => ?_, fun hs => ?_, hbar,
    fun hs hp => ?_⟩
  · exact answered htake (onNode_of_some _ hrun hi hr hn) rfl
  · refine refused htake ((onNode_of_some _ hrun hi hr hn).trans (if_neg ?_))
    rintro (h | ⟨h, hreturn⟩)
    · exact hs h
    · simp [hsilent h] at hreturn
  · exact refused htake ((onNode_of_some _ hrun hi hr hn).trans (if_pos hs))
  · refine (execBarNode_of_state htake hrun hi hr hn (by obtain hs | hs | hs := hs <;> simp [hs])).trans ?_
    rw [hrecord, State.changeNode_of_isLive_eq]
    · exact congrArg _ (State.flushHeld_of_not_waiting htake.2)
    · obtain hs | hs | hs := hs <;> simp [NodeRun.isLive, hm, hs]
  · have ho := (s.setNode i.toNat m).recompute_outside r.feeder
    have hproof := State.recompute_proof (s := s.setNode i.toNat m) hp r.feeder
    have hnot : (((s.setNode i.toNat m).recompute r.feeder).answer 0x23 tag .done []).flushHeld
        = ((s.setNode i.toNat m).recompute r.feeder).answer 0x23 tag .done [] := by
      refine State.flushHeld_of_not_waiting ?_
      rw [State.answer, State.pushReply_proof, hproof]
      exact htake.2
    exact ⟨_, (hbar hs).trans (congrArg _ hnot), ho.answer ..⟩

end Sys2Proof.Machine

/-!
The verdicts that recomputations raise, in their order (R15, R17, R106, R107), and all zones after the recomputation of every
used feeder.
-/

namespace Sys2Proof.Machine

/-! ## Raises of several entries -/

/-- Entries raised one after another (R107). -/
def raiseAll (entries queue : List VerdictEntry) : List VerdictEntry := entries.foldl (fun q e => raiseInto e q) queue

theorem raiseAll_append (es fs q : List VerdictEntry) : raiseAll (es ++ fs) q = raiseAll fs (raiseAll es q) :=
  List.foldl_append

/-- Two raises of one zone coalesce: the second's snapshot, both kinds in the history. -/
theorem raiseInto_raiseInto {e f : VerdictEntry} (h : f.zone = e.zone) (q : List VerdictEntry) :
    raiseInto f (raiseInto e q) = raiseInto { f with history := e.history ||| f.history } q := by
  induction q with
  | nil => simp [raiseInto, h]
  | cons v q ih =>
    by_cases hv : v.zone = e.zone
    · simp [raiseInto, hv, h, BitVec.or_assoc]
    · simp [raiseInto, hv, h, ih]

/-- Entries of zones that have none in the queue, each raised once, join it in their order. -/
theorem raiseAll_of_absent {es q : List VerdictEntry} (hnodup : (es.map (·.zone)).Nodup)
    (habsent : ∀ e ∈ es, ∀ v ∈ q, v.zone ≠ e.zone) : raiseAll es q = q ++ es := by
  induction es generalizing q with
  | nil => exact (List.append_nil q).symm
  | cons e es ih =>
    obtain ⟨he, hes⟩ := List.nodup_cons.mp hnodup
    have hjoined := raiseInto_of_absent (habsent e List.mem_cons_self)
    rw [raiseAll, List.foldl_cons, hjoined, ← raiseAll, ih hes, List.append_assoc]
    · rfl
    · intro f hf v hv
      obtain hv | hv := List.mem_append.mp hv
      · exact habsent f (List.mem_cons_of_mem _ hf) v hv
      · rw [List.mem_singleton.mp hv]
        exact fun hz => he (List.mem_map.mpr ⟨f, hf, hz.symm⟩)

/-! ## The entry of a hand-off -/

/-- The verdict that a hand-off of `new` raises for a zone (R96, R97, R99). -/
def Zone.handOffKind (x : Zone) (new : Evaluability) : Option VerdictKind :=
  if x.isTripped then none
  else match degradeReason new with
    | some _ => some .degraded
    | none =>
      match new, x.run.state with
      | .absorbed, .absorbed => none
      | .absorbed, _ => some .absorbed
      | _, .absorbed => some .restored
      | _, .degraded => some .restored
      | _, _ => none

/-- The entry that a hand-off raises, none where it raises nothing. -/
def State.handOffEntry (s : State) (off : Nat × Evaluability) : Option VerdictEntry :=
  (s.zoneAt off.1).bind fun rx => (rx.2.handOffKind off.2).map fun kind =>
    verdictEntry s.now off.1 rx.1 (rx.2.handedOff s.now (s.profile off.1) off.2) kind

section
variable {s t : State} {z : Nat} {x : Zone} {r : NodeRec} {new : Evaluability}

theorem Raises.verdicts_of_absent {kind : VerdictKind} (h : Raises s z kind t) (hr : s.active.position? z = none) :
    t.verdicts = s.verdicts := by
  obtain ⟨u, ho, hv, rfl⟩ := h
  rw [← hv]
  simp [State.raise, State.zoneAt, ho.active, hr]

/-- A hand-off raises its one kind, or writes no verdict. -/
theorem HandsOff.raises (h : HandsOff s z x new t) :
    x.handOffKind new = none ∧ t.verdicts = s.verdicts ∨ ∃ kind, x.handOffKind new = some kind ∧ Raises s z kind t := by
  cases h with
  | held ht => exact .inl ⟨by simp [Zone.handOffKind, ht], rfl⟩
  | unmoved h =>
    refine .inl ⟨?_, rfl⟩
    obtain ⟨hs, rfl⟩ | ⟨hs | hs, rfl⟩ := h <;> simp [Zone.handOffKind, Zone.isTripped, degradeReason, hs]
  | absorbs hs hn =>
    subst hn
    refine .inr ⟨.absorbed, ?_, s.enterAbsorbed_raises z⟩
    obtain hs | hs | hs := hs <;> simp [Zone.handOffKind, Zone.isTripped, degradeReason, hs]
  | degrades hr hs =>
    refine .inr ⟨.degraded, ?_, s.enterDegraded_raises z _⟩
    obtain hs | hs | hs := hs <;> simp [Zone.handOffKind, Zone.isTripped, hr, hs]
  | changes hr hs => exact .inr ⟨.degraded, by simp [Zone.handOffKind, Zone.isTripped, hr, hs], s.changeDegraded_raises z _⟩
  | returns hs hn =>
    subst hn
    exact .inr ⟨.restored, by simp [Zone.handOffKind, Zone.isTripped, degradeReason, hs], s.restoreAbsorbed_raises z⟩
  | restores hs hn =>
    subst hn
    exact .inr ⟨.restored, by simp [Zone.handOffKind, Zone.isTripped, degradeReason, hs], s.restoreDegraded_raises z⟩

theorem State.handOff_verdicts (s : State) (off : Nat × Evaluability) :
    (s.handOff off.1 off.2).verdicts = raiseAll (s.handOffEntry off).toList s.verdicts := by
  cases hx : s.zone? off.1 with
  | none => simp [State.handOff, State.handOffEntry, State.zoneAt, hx, raiseAll]
  | some x =>
    have h := State.handOff_handsOff hx off.2
    cases hr : s.active.position? off.1 with
    | none =>
      obtain ⟨-, hv⟩ | ⟨kind, -, hraises⟩ := h.raises
      · simp [hv, State.handOffEntry, State.zoneAt, hr, raiseAll]
      · simp [hraises.verdicts_of_absent hr, State.handOffEntry, State.zoneAt, hr, raiseAll]
    | some r =>
      obtain ⟨hkind, hv⟩ | ⟨kind, hkind, hraises⟩ := h.raises
      · simp [hv, State.handOffEntry, State.zoneAt_of_some hr hx, hkind, raiseAll]
      · simp [hraises.verdicts hr (h.zone hx), State.handOffEntry, State.zoneAt_of_some hr hx, hkind, raiseAll]

/-- An entry is of the zone handed off, raised now with its kind alone. -/
theorem State.handOffEntry_some {off : Nat × Evaluability} {e : VerdictEntry} (h : s.handOffEntry off = some e) :
    e.zone = off.1 ∧ e.raised = s.now ∧ e.history = e.kind.bit
      ∧ (e.kind = .degraded ∨ e.kind = .restored ∨ e.kind = .absorbed) := by
  obtain ⟨⟨r, x⟩, -, h⟩ := Option.bind_eq_some_iff.mp h
  obtain ⟨kind, hkind, rfl⟩ := Option.map_eq_some_iff.mp h
  refine ⟨rfl, rfl, rfl, ?_⟩
  show kind = .degraded ∨ kind = .restored ∨ kind = .absorbed
  unfold Zone.handOffKind at hkind
  split at hkind
  · cases hkind
  · split at hkind
    · cases hkind; exact .inl rfl
    · split at hkind <;> cases hkind <;> simp

/-- A hand-off's entry depends on its own zone alone. -/
theorem State.handOffEntry_congr {off : Nat × Evaluability} (ho : s.OutsideZones t) (hz : t.zone? off.1 = s.zone? off.1) :
    t.handOffEntry off = s.handOffEntry off := by
  simp only [State.handOffEntry, State.zoneAt, ho.active, hz, ho.now, State.profile_congr ho]

/-- Hand-offs of distinct zones raise their entries in their order, each as it would alone. -/
theorem State.foldl_handOff_verdicts {offs : List (Nat × Evaluability)} (h : (offs.map Prod.fst).Nodup) (s : State) :
    (offs.foldl (fun t off => t.handOff off.1 off.2) s).verdicts = raiseAll (offs.filterMap s.handOffEntry) s.verdicts := by
  induction offs generalizing s with
  | nil => rfl
  | cons off offs ih =>
    obtain ⟨hoff, hoffs⟩ := List.nodup_cons.mp h
    have hothers : offs.filterMap (s.handOff off.1 off.2).handOffEntry = offs.filterMap s.handOffEntry :=
      List.filterMap_congr fun o ho => State.handOffEntry_congr (s.handOff_outside off.1 off.2)
        (s.handOff_keeps off.1 off.2 o.1 fun heq => hoff (List.mem_map.mpr ⟨o, ho, heq⟩))
    rw [List.foldl_cons, ih hoffs, hothers, State.handOff_verdicts, ← raiseAll_append]
    cases hentry : s.handOffEntry off <;> simp [hentry]

end

/-! ## The entries of a recomputation -/

/-- The entries that a recomputation of a feeder raises, in their order. -/
def State.recomputeEntries (s : State) (f : Fin 4) : List VerdictEntry :=
  (s.handOffs f).filterMap (s.replaceTopology f).handOffEntry

section
variable {s t : State} {f : Fin 4}

theorem State.recompute_verdicts (s : State) (f : Fin 4) :
    (s.recompute f).verdicts = raiseAll (s.recomputeEntries f) s.verdicts :=
  State.foldl_handOff_verdicts ((s.handOffs_ascending f).imp Nat.ne_of_lt) (s.replaceTopology f)

theorem State.mem_recomputeEntries {e : VerdictEntry} (h : e ∈ s.recomputeEntries f) : e.zone ∈ s.active.zonesOf f
    ∧ e.raised = s.now ∧ e.history = e.kind.bit ∧ (e.kind = .degraded ∨ e.kind = .restored ∨ e.kind = .absorbed) := by
  obtain ⟨⟨z, new⟩, hoff, he⟩ := List.mem_filterMap.mp h
  obtain ⟨hz, hraised, hhistory, hkind⟩ := State.handOffEntry_some he
  exact ⟨hz ▸ (State.mem_handOffs.mp hoff).1, hraised, hhistory, hkind⟩

theorem State.recomputeEntries_ascending (s : State) (f : Fin 4) :
    ((s.recomputeEntries f).map (·.zone)).Pairwise (· < ·) := by
  rw [List.pairwise_map, State.recomputeEntries, List.pairwise_filterMap]
  refine (List.pairwise_map.mp (s.handOffs_ascending f)).imp fun {off off'} hlt e he e' he' => ?_
  rw [(State.handOffEntry_some he).1, (State.handOffEntry_some he').1]
  exact hlt

/-- What a recomputation does depends on the zones of its feeder alone. -/
theorem State.recomputeEntries_congr (ho : s.OutsideZones t) (hz : ∀ z ∈ s.active.zonesOf f, t.zone? z = s.zone? z) :
    t.recomputeEntries f = s.recomputeEntries f := by
  have hnew := State.newTopology_eq ho.active ho.nodes
  have hoffs : t.handOffs f = s.handOffs f := by
    simp only [State.handOffs, ho.active, hnew]
    exact List.filterMap_congr fun z hmem => by rw [hz z hmem]
  have ho' : (s.replaceTopology f).OutsideZones (t.replaceTopology f) := { ho with }
  rw [State.recomputeEntries, State.recomputeEntries, hoffs]
  refine List.filterMap_congr fun off hoff => State.handOffEntry_congr ho' ?_
  have hmem := (State.mem_handOffs.mp hoff).1
  rw [State.zone?_replaceTopology, State.zone?_replaceTopology, ho.active, hz _ hmem, hnew]

end

/-! ## Every used feeder (R17) -/

theorem Tables.zonesOf_disjoint {t : Tables} {f g : Fin 4} {z : Nat} (hf : z ∈ t.zonesOf f) (hg : z ∈ t.zonesOf g) : f = g := by
  obtain ⟨r, hr, rfl⟩ := Tables.mem_zonesOf.mp hf
  obtain ⟨q, hq, rfl⟩ := Tables.mem_zonesOf.mp hg
  rw [Option.some.inj (hr.symm.trans hq)]

/-- Recomputations of distinct feeders, zone by zone, and their entries in their order. -/
theorem State.foldl_recompute {fs : List (Fin 4)} (h : fs.Nodup) (s : State) :
    (∀ y, (fs.foldl State.recompute s).zone? y = if ∃ f ∈ fs, y ∈ s.active.zonesOf f
      then (s.zone? y).map fun x => x.recomputed s.now (s.profile y) (s.newTopology y) else s.zone? y)
    ∧ (fs.foldl State.recompute s).verdicts = raiseAll (fs.flatMap s.recomputeEntries) s.verdicts := by
  induction fs generalizing s with
  | nil => exact ⟨fun y => by simp, rfl⟩
  | cons f fs ih =>
    obtain ⟨hf, hfs⟩ := List.nodup_cons.mp h
    have ho := s.recompute_outside f
    obtain ⟨hzones, hverdicts⟩ := ih hfs (s.recompute f)
    refine ⟨fun y => ?_, ?_⟩
    · rw [List.foldl_cons, hzones, ho.active, ho.now, State.profile_congr ho, State.newTopology_eq ho.active ho.nodes,
        State.zone?_recompute]
      by_cases hy : y ∈ s.active.zonesOf f
      · have hnot : ¬∃ g ∈ fs, y ∈ s.active.zonesOf g := fun ⟨g, hg, hyg⟩ => hf (Tables.zonesOf_disjoint hy hyg ▸ hg)
        simp [hy, hnot]
      · simp [hy]
    · have hothers : fs.flatMap (s.recompute f).recomputeEntries = fs.flatMap s.recomputeEntries :=
        List.flatMap_congr fun g hg => State.recomputeEntries_congr ho fun z hz => by
          rw [State.zone?_recompute, if_neg fun hzf : z ∈ _ => hf ((Tables.zonesOf_disjoint (f := f) hzf hz).symm ▸ hg)]
      rw [List.foldl_cons, hverdicts, hothers, State.recompute_verdicts, List.flatMap_cons, raiseAll_append]

theorem Tables.usedFeeders_nodup (t : Tables) : t.usedFeeders.Nodup := List.Nodup.filter _ (List.nodup_finRange 4)

/-- The recomputation of every used feeder, zone by zone. -/
theorem State.zone?_recomputeAll (s : State) (y : Nat) : s.recomputeAll.zone? y
    = if ∃ f ∈ s.active.usedFeeders, y ∈ s.active.zonesOf f
      then (s.zone? y).map fun x => x.recomputed s.now (s.profile y) (s.newTopology y) else s.zone? y :=
  (State.foldl_recompute s.active.usedFeeders_nodup s).1 y

/-- The entries that the recomputation of every used feeder raises, in their order. -/
def State.recomputeAllEntries (s : State) : List VerdictEntry := s.active.usedFeeders.flatMap s.recomputeEntries

theorem State.recomputeAll_verdicts (s : State) : s.recomputeAll.verdicts = raiseAll s.recomputeAllEntries s.verdicts :=
  (State.foldl_recompute s.active.usedFeeders_nodup s).2

/-- Each zone has one entry at most. -/
theorem State.recomputeAllEntries_nodup (s : State) : (s.recomputeAllEntries.map (·.zone)).Nodup := by
  rw [State.recomputeAllEntries, List.map_flatMap]
  refine List.nodup_flatMap.mpr ⟨fun f _ => (s.recomputeEntries_ascending f).imp Nat.ne_of_lt, ?_⟩
  refine s.active.usedFeeders_nodup.imp fun {f g} hfg => List.disjoint_left.mpr fun z hf hg => hfg ?_
  obtain ⟨e, he, rfl⟩ := List.mem_map.mp hf
  obtain ⟨e', he', heq⟩ := List.mem_map.mp hg
  exact Tables.zonesOf_disjoint (State.mem_recomputeEntries he).1 (heq ▸ (State.mem_recomputeEntries he').1)

theorem State.mem_recomputeAllEntries {s : State} {e : VerdictEntry} (h : e ∈ s.recomputeAllEntries) : e.raised = s.now
    ∧ e.history = e.kind.bit ∧ (e.kind = .degraded ∨ e.kind = .restored ∨ e.kind = .absorbed) := by
  obtain ⟨f, -, he⟩ := List.mem_flatMap.mp h
  exact (State.mem_recomputeEntries he).2

end Sys2Proof.Machine

/-!
Releases (R92 to R94) and RESTART ENGINE (R168, R173, R174).
-/

namespace Sys2Proof.Machine

/-! ## A release -/

/-- A zone as a release leaves it, before it follows its topology (R92, R93). -/
def Zone.released (x : Zone) (trips : Nat) (memory : Option Time) : Zone :=
  { x with run := x.run.released trips memory, eval := { x.eval.markReseed with evidence := 0 } }

section
variable {s : State} {z trips : Nat} {memory : Option Time} {x : Zone} {r : NodeRec} {new : Evaluability}

/-- Where a released zone is handed off (R94): its evaluation record stands. -/
theorem Zone.handedOff_released (x : Zone) (trips : Nat) (memory : Option Time) (now : Time) (p : ZoneProfile)
    (new : Evaluability) : ((x.released trips memory).handedOff now p new).topo = x.topo
      ∧ ((x.released trips memory).handedOff now p new).eval = { x.eval.markReseed with evidence := 0 }
      ∧ (((x.released trips memory).handedOff now p new).run.state,
          ((x.released trips memory).handedOff now p new).run.reason) = (match new with
        | .evaluable => (.normal, none)
        | .absorbed => (.absorbed, none)
        | .headLost => (.degraded, some .headLost)
        | .boundaryOverflow => (.degraded, some .boundaryOverflow)) := by
  cases new <;> exact ⟨rfl, rfl, rfl⟩

theorem Zone.handedOff_of_handOffKind {now : Time} {p : ZoneProfile} (h : (x.released trips memory).handOffKind new = none) :
    (x.released trips memory).handedOff now p new = x.released trips memory := by
  cases new with
  | evaluable => rfl
  | absorbed | headLost | boundaryOverflow => cases h

theorem State.zone?_release (hx : s.zone? z = some x) : (s.release z trips memory).zone? z
    = some ((x.released trips memory).handedOff s.now (s.profile z) x.topo.evaluability) := by
  rw [State.release_eq_handOff hx, State.zone?_handOff, if_pos rfl, State.zone?_released, if_pos rfl, hx]
  rfl

theorem State.zone?_release_other (hx : s.zone? z = some x) {w : Nat} (hw : w ≠ z) :
    (s.release z trips memory).zone? w = s.zone? w := by
  rw [State.release_eq_handOff hx, State.zone?_handOff, if_neg hw, State.zone?_released, if_neg hw]

theorem State.released_verdicts (hr : s.active.position? z = some r) (hx : s.zone? z = some x) :
    (s.released z trips memory).verdicts
      = raiseInto (verdictEntry s.now z r (x.released trips memory) .cleared) s.verdicts := by
  have hz : State.zone? (s.modZone z fun x => x.released trips memory) z = some (x.released trips memory) := by
    rw [State.zone?_modZone_same, hx]
    rfl
  exact congrArg State.verdicts (State.raise_of_some (s := s.modZone z _) .cleared hr hz)

/-- The zone's entry after a release is a snapshot of what the release makes of it, with CLEARED in its history (R92, R107). -/
theorem State.release_entry {y : Zone} (hr : s.active.position? z = some r) (hx : s.zone? z = some x)
    (hy : (s.release z trips memory).zone? z = some y) : ∃ v ∈ (s.release z trips memory).verdicts,
      v.zone = z ∧ v.history.getLsbD 7 = true ∧ v.state = y.run.state ∧ v.evidence = y.eval.evidence := by
  have hcleared : (s.released z trips memory).zone? z = some (x.released trips memory) := by
    rw [State.zone?_released, if_pos rfl, hx]
    rfl
  rw [State.release_eq_handOff hx] at hy ⊢
  obtain ⟨hkind, hv⟩ | ⟨kind, -, hraises⟩ := (State.handOff_handsOff hcleared x.topo.evaluability).raises
  · rw [State.zone?_handOff, if_pos rfl, hcleared] at hy
    obtain rfl : x.released trips memory = y := (Zone.handedOff_of_handOffKind hkind).symm.trans (Option.some.inj hy)
    rw [hv, State.released_verdicts hr hx]
    obtain ⟨v, hv, old, rfl⟩ := mem_raiseInto_self (verdictEntry s.now z r (x.released trips memory) .cleared) s.verdicts
    exact ⟨_, hv, rfl, by simp [verdictEntry, VerdictKind.bit], rfl, rfl⟩
  · rw [hraises.verdicts (r := r) hr hy, State.released_verdicts hr hx, raiseInto_raiseInto
      (e := verdictEntry s.now z r _ .cleared) (f := verdictEntry _ z r y kind) rfl]
    obtain ⟨v, hv, old, rfl⟩ := mem_raiseInto_self
      { verdictEntry (s.released z trips memory).now z r y kind with history :=
        (verdictEntry s.now z r (x.released trips memory) .cleared).history
          ||| (verdictEntry (s.released z trips memory).now z r y kind).history } s.verdicts
    exact ⟨_, hv, rfl, by simp [verdictEntry, VerdictKind.bit], rfl, rfl⟩

theorem State.release_linesFollow (hx : s.zone? z = some x) : (s.release z trips memory).LinesFollow := by
  rw [State.release_eq_handOff hx]
  exact State.LinesFollow.handOff (State.recomputeLines_linesFollow _) _ _

theorem State.release_proof_state (hx : s.zone? z = some x) (hp : s.proof.state ≠ .zonePending) :
    (s.release z trips memory).proof.state = s.proof.state := by
  have hcleared : (s.released z trips memory).zone? z = some (x.released trips memory) := by
    rw [State.zone?_released, if_pos rfl, hx]
    rfl
  rw [State.release_eq_handOff hx]
  obtain h | ⟨h, -⟩ := (State.handOff_handsOff hcleared x.topo.evaluability).proof
  · rw [h]; rfl
  · rw [h, State.abandonProof_of_other (s := s.released z trips memory) (.inl hp)]; rfl

end

/-- Settles O46: a release is the cleared zone handed off at its own evaluability. -/
theorem releasePlacesTheZoneByItsTopology : Obligations.ReleasePlacesTheZoneByItsTopology := by
  intro s c tag i code z trips r x p memory htake hp hrun hz hi hr hx hprofile
  subst hi hprofile
  refine ⟨fun hc => ?_, fun hs => ?_, fun hs hk => ?_⟩
  · have hexec : exec c s = .next ((s.release i.toNat trips memory).answer code tag .done []) := by
      have htakes {k : State → Answer} (hk : k s = done (s.release i.toNat trips memory) []) :
          (.next (s.takeCommand code tag k) : Host.Outcome State Fault Refusal)
            = .next ((s.release i.toNat trips memory).answer code tag .done []) :=
        congrArg _ (State.takeCommand_of_answer htake.1 hk (State.release_proof_state hx hp ▸ htake.2))
      obtain ⟨rfl, rfl, hs, rfl, rfl⟩ | ⟨rfl, rfl, hs, rfl, rfl⟩ := hc
      · exact htakes ((onZone_of_some _ hrun hz hr hx).trans (if_pos hs))
      · exact htakes ((onZone_of_some _ hrun hz hr hx).trans (if_pos (decide_eq_true hs)))
    have hy := State.zone?_release (trips := trips) (memory := memory) hx
    obtain ⟨htopo, heval, hplace⟩ := x.handedOff_released trips memory s.now (s.profile i.toNat) x.topo.evaluability
    have hcarries := (x.released trips memory).carries_handedOff s.now (s.profile i.toNat) x.topo.evaluability
    obtain ⟨v, hv, hvz, hbit, hstate, hevidence⟩ := State.release_entry hr hx hy
    exact ⟨_, _, hexec, (s.release_outside i.toNat trips memory).answer .., State.release_linesFollow hx, hy,
      fun w hw => State.zone?_release_other hx hw, htopo, heval, hcarries.trips, hcarries.memory, hplace,
      v, hv, hvz, hbit, hstate, hevidence.trans (congrArg Evaluation.evidence heval)⟩
  · exact refused htake ((onZone_of_some _ hrun hz hr hx).trans (if_neg hs))
  · exact refused htake ((onZone_of_some _ hrun hz hr hx).trans (if_neg (by simp [Zone.isTripped_eq_false hs hk])))

end Sys2Proof.Machine

/-!
RESTART ENGINE (R58, R81, R104, R137, R151, R168, R173, R174).
-/

namespace Sys2Proof.Machine

/-! ## What recomputations tell the capture and proof units -/

section
variable {s : State}

/-- A hand-off asks the capture unit for one SUSPECT trigger, at a restore alone, or for none (R87, R142). -/
theorem State.handOff_capture (s : State) (z : Nat) (new : Evaluability) :
    (s.handOff z new).slots = s.slots ∧ (s.handOff z new).missed = s.missed
      ∨ new = .evaluable ∧ ∃ f, (s.handOff z new).slots = (s.raiseTrigger f .suspect (some z)).slots
          ∧ (s.handOff z new).missed = (s.raiseTrigger f .suspect (some z)).missed := by
  cases hx : s.zone? z with
  | none => simp [State.handOff, hx]
  | some x =>
    by_cases hnot : x.run.state ≠ .degraded ∨ new ≠ .evaluable ∨ x.eval.evidence < (s.profile z).tSuspect
    · exact .inl ((State.handOff_handsOff hx new).capture hx hnot)
    · simp only [not_or, not_not, Nat.not_lt] at hnot
      obtain ⟨hs, rfl, hheld⟩ := hnot
      refine .inr ⟨rfl, s.feederOf z, ?_⟩
      have hfeeder : State.feederOf (s.modRun z fun r => { r with graceDeadline := none }) z = s.feederOf z := rfl
      rw [State.handOff_restores hx hs, State.restoreDegraded_of_held hx hheld]
      simp only [State.enterSuspect, hfeeder, State.raise_slots, State.raise_missed, State.raiseTrigger_slots_modRun, and_self]

/-- A recomputation that finds no zone EVALUABLE anew asks the capture unit for nothing. -/
theorem State.recompute_capture {f : Fin 4} (h : ∀ z, (s.newTopology z).evaluability ≠ .evaluable) :
    (s.recompute f).slots = s.slots ∧ (s.recompute f).missed = s.missed := by
  have hoffs (offs : List (Nat × Evaluability)) (hne : ∀ off ∈ offs, off.2 ≠ .evaluable) : ∀ t : State,
      (offs.foldl (fun t off => t.handOff off.1 off.2) t).slots = t.slots
        ∧ (offs.foldl (fun t off => t.handOff off.1 off.2) t).missed = t.missed := by
    induction offs with
    | nil => exact fun _ => ⟨rfl, rfl⟩
    | cons off offs ih =>
      intro t
      obtain ⟨hoff, hoffs⟩ := List.forall_mem_cons.mp hne
      obtain ⟨hslots, hmissed⟩ := (t.handOff_capture off.1 off.2).resolve_right fun h => hoff h.1
      obtain ⟨hslots', hmissed'⟩ := ih hoffs (t.handOff off.1 off.2)
      exact ⟨hslots'.trans hslots, hmissed'.trans hmissed⟩
  refine hoffs _ (fun ⟨z, new⟩ hoff => ?_) (s.replaceTopology f)
  obtain ⟨-, hnew, -⟩ := State.mem_handOffs.mp hoff
  exact hnew ▸ h z

theorem State.recomputeAll_capture (h : ∀ z, (s.newTopology z).evaluability ≠ .evaluable) :
    s.recomputeAll.slots = s.slots ∧ s.recomputeAll.missed = s.missed := by
  have hall (fs : List (Fin 4)) : ∀ t : State, s.OutsideZones t →
      (fs.foldl State.recompute t).slots = t.slots ∧ (fs.foldl State.recompute t).missed = t.missed := by
    induction fs with
    | nil => exact fun _ _ => ⟨rfl, rfl⟩
    | cons f fs ih =>
      intro t ht
      obtain ⟨hslots, hmissed⟩ := State.recompute_capture (s := t) (f := f)
        fun z => (State.newTopology_eq ht.active ht.nodes z).symm ▸ h z
      obtain ⟨hslots', hmissed'⟩ := ih _ (ht.trans (t.recompute_outside f))
      exact ⟨hslots'.trans hslots, hmissed'.trans hmissed⟩
  exact hall _ s (.refl s)

theorem State.recomputeAll_proof (h : s.proof.state ≠ .zonePending) : s.recomputeAll.proof = s.proof := by
  have hall (fs : List (Fin 4)) : ∀ t : State, t.proof = s.proof → (fs.foldl State.recompute t).proof = s.proof := by
    induction fs with
    | nil => exact fun _ ht => ht
    | cons f fs ih => exact fun t ht => ih _ ((State.recompute_proof (ht ▸ h) f).trans ht)
  exact hall _ s rfl

end

/-! ## The zones of a machine without a LIVE node -/

section
variable {s : State} {z : Nat} {r : NodeRec}

/-- The topology record of a zone while no node is LIVE (R9, R10). -/
def State.deadTopology (s : State) (z : Nat) : Topology := topologyOf s.active (fun _ => false) z

/-- The state record of a fresh zone that is handed off while no node is LIVE (R96, R97). -/
def ZoneRecord.afterRestart (now : Time) (p : ZoneProfile) (r : NodeRec) : ZoneRecord :=
  if r.role = .head then
    ⟨.degraded, some .headLost, 0, none, false,
      if p.lossAction = .safeTrip then some (after now p.degradeGrace) else none, none⟩
  else ⟨.absorbed, none, 0, none, false, none, none⟩

theorem boundarySource_dead (t : Tables) (i : Nat) : boundarySource t (fun _ => false) i = none := by
  simp only [boundarySource, Bool.false_eq_true, if_false]
  cases t.twinOf i <;> rfl

theorem State.deadTopology_evaluability (s : State) (z : Nat) : (s.deadTopology z).evaluability
    = if (s.active.node? z).any (fun r => decide (r.role = .head)) then .headLost else .absorbed := by
  have hnone := boundarySource_dead s.active z
  by_cases hhead : ∃ r, s.active.node? z = some r ∧ r.role = .head
  · obtain ⟨r, hr, hrole⟩ := hhead
    rw [State.deadTopology, topologyOf_of_headLost hnone hr hrole, hr]
    simp [hrole]
  · rw [State.deadTopology, topologyOf_of_absorbed hnone fun r hr hrole => hhead ⟨r, hr, hrole⟩, if_neg]
    simpa [Option.any_eq_true] using hhead

theorem State.deadTopology_evaluability_of (hr : s.active.position? z = some r) :
    (s.deadTopology z).evaluability = if r.role = .head then .headLost else .absorbed := by
  rw [s.deadTopology_evaluability, Tables.node?_of_position? hr]
  simp

/-- The marks of a fresh zone are set already, so that only its topology record is replaced. -/
theorem Zone.withTopology_fresh (z : Nat) (new : Topology) : (Zone.fresh z).withTopology new = ⟨.fresh, .fresh, new⟩ := by
  unfold Zone.withTopology
  split <;> rfl

theorem Zone.handedOff_fresh (hr : s.active.position? z = some r) (now : Time) (p : ZoneProfile) :
    ((Zone.fresh z).withTopology (s.deadTopology z)).handedOff now p (s.deadTopology z).evaluability
      = ⟨.afterRestart now p r, .fresh, s.deadTopology z⟩ := by
  rw [Zone.withTopology_fresh, State.deadTopology_evaluability_of hr]
  by_cases hrole : r.role = .head
  · simp only [hrole, if_true, ZoneRecord.afterRestart]
    cases hloss : p.lossAction <;>
      simp [Zone.handedOff, Zone.isTripped, ZoneRecord.fresh, degradeReason, ZoneRecord.toDegraded, hloss]
  · simp only [hrole, if_false, ZoneRecord.afterRestart]
    rfl

theorem Zone.recomputed_fresh (hr : s.active.position? z = some r) (now : Time) (p : ZoneProfile) :
    (Zone.fresh z).recomputed now p (s.deadTopology z) = ⟨.afterRestart now p r, .fresh, s.deadTopology z⟩ := by
  rw [Zone.recomputed, if_neg, Zone.handedOff_fresh hr]
  rw [State.deadTopology_evaluability_of hr]
  split <;> exact nofun

theorem Zone.handOffKind_fresh (hr : s.active.position? z = some r) :
    ((Zone.fresh z).withTopology (s.deadTopology z)).handOffKind (s.deadTopology z).evaluability
      = some (if r.role = .head then .degraded else .absorbed) := by
  rw [Zone.withTopology_fresh, State.deadTopology_evaluability_of hr]
  split <;> rfl

end

/-! ## The cleared runtime, recomputed -/

section
variable {s : State} {z : Nat} {r : NodeRec} {f : Fin 4}

theorem State.node?_clearRuntime (s : State) (i : Nat) :
    s.clearRuntime.node? i = (s.active.node? i).map fun _ => .fresh := by
  simp only [State.node?, State.clearRuntime, Tables.node?, List.getElem?_map]
  cases s.active.nodes[i]? <;> rfl

theorem State.newTopology_clearRuntime (s : State) (z : Nat) : s.clearRuntime.newTopology z = s.deadTopology z := by
  have hlive : s.clearRuntime.isLive = fun _ => false := by
    funext i
    rw [State.isLive, State.node?_clearRuntime]
    cases s.active.node? i <;> rfl
  rw [State.newTopology, hlive]
  rfl

theorem State.profile_clearRuntime (hr : s.active.position? z = some r) :
    s.clearRuntime.profile z = s.active.zoneProfile (Machine.profileNumber .standard r) := by
  have hrecord : s.clearRuntime.active.node? z = some r := Tables.node?_of_position? hr
  simp only [State.profile, State.profileNumber, hrecord]
  simp [State.clearRuntime]

/-- The state record of a position after the restart. -/
def State.restartRecord (s : State) (r : NodeRec) : ZoneRecord :=
  .afterRestart s.now (s.active.zoneProfile (Machine.profileNumber .standard r)) r

theorem State.zone?_restart (s : State) (z : Nat) : s.restart.zone? z = (s.active.position? z).map fun r =>
    if s.active.feederUsed r.feeder then ⟨s.restartRecord r, .fresh, s.deadTopology z⟩ else .fresh z := by
  have hzone : s.restart.zone? z = s.clearRuntime.recomputeAll.zone? z := rfl
  rw [hzone, State.zone?_recomputeAll, State.Sound.zone?_clearRuntime]
  cases hr : s.active.position? z with
  | none => split <;> rfl
  | some r =>
    have hused : (∃ f ∈ s.clearRuntime.active.usedFeeders, z ∈ s.clearRuntime.active.zonesOf f)
        ↔ s.active.feederUsed r.feeder = true := by
      constructor
      · rintro ⟨f, hf, hz⟩
        obtain ⟨q, hq, rfl⟩ := Tables.mem_zonesOf.mp hz
        obtain rfl := Option.some.inj (hr.symm.trans hq)
        exact (List.mem_filter.mp hf).2
      · exact fun h => ⟨r.feeder, List.mem_filter.mpr ⟨mem_four _, h⟩, Tables.mem_zonesOf.mpr ⟨r, hr, rfl⟩⟩
    by_cases h : s.active.feederUsed r.feeder = true
    · rw [if_pos (hused.mpr h), State.newTopology_clearRuntime, State.profile_clearRuntime hr,
        Option.map_some, Option.map_some, Option.map_some, Zone.recomputed_fresh hr, if_pos h]
      rfl
    · rw [if_neg (mt hused.mp h), Option.map_some, Option.map_some, if_neg h]

theorem State.restart_untripped (s : State) (z : Nat) : (s.restart.zone? z).any Zone.isTripped = false := by
  rw [State.zone?_restart]
  cases s.active.position? z with
  | none => rfl
  | some r =>
    show Zone.isTripped (ite ..) = false
    split
    · show decide (_ ∨ _) = false
      unfold State.restartRecord ZoneRecord.afterRestart
      split <;> rfl
    · rfl

theorem State.restart_proof (s : State) : s.restart.proof = .idle := by
  have hproof : s.clearRuntime.recomputeAll.proof = .idle := State.recomputeAll_proof nofun
  rw [State.restart, State.recomputeLines_takenOver_of_no_pulse (hproof ▸ nofun), hproof]

theorem State.restart_lines (s : State) (l : Fin 4) : s.restart.lines.get l = false := by
  have hfollow : s.restart.lines.get l = (s.restart.policyCondition l || s.restart.pulseOn l) :=
    State.recomputeLines_linesFollow _ l
  have hpulse : s.restart.pulseOn l = false := by simp [State.pulseOn, s.restart_proof, Proof.idle]
  have hdemand : s.restart.demanded l = false := by
    refine Bool.eq_false_iff.mpr fun h => ?_
    obtain ⟨z, -, x, -, hx, ht, -⟩ := (State.demanded_iff _ l).mp h
    have hnot := s.restart_untripped z
    rw [hx] at hnot
    exact absurd ht (by simpa using hnot)
  have hpolicy : s.restart.policyCondition l = false := by
    refine Bool.eq_false_iff.mpr fun h => ?_
    rw [State.policyCondition_iff, hdemand] at h
    simp at h
  rw [hfollow, hpolicy, hpulse]
  rfl

/-- The entry that the restart raises for a position of a used feeder. -/
def State.restartEntry (s : State) (z : Nat) (r : NodeRec) : VerdictEntry :=
  verdictEntry s.now z r ⟨s.restartRecord r, .fresh, s.deadTopology z⟩ (if r.role = .head then .degraded else .absorbed)

/-- Every zone of a feeder is handed off, since none stays EVALUABLE. -/
theorem State.recomputeEntries_clearRuntime (s : State) (f : Fin 4) : s.clearRuntime.recomputeEntries f
    = (s.active.zonesOf f).filterMap fun z => (s.active.position? z).map (s.restartEntry z) := by
  rw [State.recomputeEntries, State.handOffs, List.filterMap_filterMap]
  refine List.filterMap_congr fun z hz => ?_
  obtain ⟨r, hr, -⟩ : ∃ r, s.active.position? z = some r ∧ r.feeder = f := Tables.mem_zonesOf.mp hz
  have hevaluable : (Zone.fresh z).topo.evaluability ≠ (s.deadTopology z).evaluability := by
    rw [State.deadTopology_evaluability_of hr]
    split <;> exact nofun
  have hmember : z ∈ s.clearRuntime.active.zonesOf f := hz
  have hzone : (s.clearRuntime.replaceTopology f).zone? z = some ((Zone.fresh z).withTopology (s.deadTopology z)) := by
    rw [State.zone?_replaceTopology, if_pos hmember, State.Sound.zone?_clearRuntime, hr, State.newTopology_clearRuntime]
    rfl
  have hrecord : (s.clearRuntime.replaceTopology f).active.position? z = some r := hr
  have hprofile : (s.clearRuntime.replaceTopology f).profile z = _ := State.profile_clearRuntime hr
  rw [State.Sound.zone?_clearRuntime, hr, State.newTopology_clearRuntime, Option.map_some, Option.bind_some, if_neg hevaluable,
    Option.bind_some, State.handOffEntry, State.zoneAt_of_some hrecord hzone, Option.bind_some, hprofile,
    Zone.handOffKind_fresh hr, Zone.handedOff_fresh hr]
  rfl

theorem State.restart_verdicts (s : State) : s.restart.verdicts = s.active.usedFeeders.flatMap fun f =>
    (s.active.zonesOf f).filterMap fun z => (s.active.position? z).map (s.restartEntry z) := by
  have hverdicts : s.restart.verdicts = s.clearRuntime.recomputeAll.verdicts := rfl
  have hempty : s.clearRuntime.verdicts = [] := rfl
  rw [hverdicts, State.recomputeAll_verdicts, hempty,
    raiseAll_of_absent (State.recomputeAllEntries_nodup _) fun _ _ _ h => (List.not_mem_nil h).elim]
  exact List.flatMap_congr fun f _ => s.recomputeEntries_clearRuntime f

theorem State.restart_verdict_kinds (s : State) : (s.restart.verdicts.map fun v => (v.zone, v.kind))
    = s.active.usedFeeders.flatMap (fun f => (s.active.zonesOf f).map fun z =>
      (z, if (s.active.node? z).any (fun r => decide (r.role = .head)) then VerdictKind.degraded else VerdictKind.absorbed)) := by
  rw [State.restart_verdicts, List.map_flatMap]
  refine List.flatMap_congr fun f _ => ?_
  rw [List.map_filterMap, ← List.filterMap_eq_map]
  refine List.filterMap_congr fun z hz => ?_
  obtain ⟨r, hr, -⟩ := Tables.mem_zonesOf.mp hz
  simp [hr, Tables.node?_of_position? hr, State.restartEntry, verdictEntry]

theorem State.mem_restart_verdicts {v : VerdictEntry} (hv : v ∈ s.restart.verdicts) :
    ∃ r x, s.active.position? v.zone = some r ∧ s.restart.zone? v.zone = some x ∧ v = ⟨v.zone, r.address, r.feeder, v.kind,
      v.kind.bit, x.run.state, none, .none, 0, 0, x.run.reason, s.now⟩ := by
  rw [State.restart_verdicts] at hv
  obtain ⟨f, hf, hv⟩ := List.mem_flatMap.mp hv
  obtain ⟨z, hz, hv⟩ := List.mem_filterMap.mp hv
  obtain ⟨r, hr, rfl⟩ := Option.map_eq_some_iff.mp hv
  have hfeeder : r.feeder = f := by
    obtain ⟨q, hq, hfeeder⟩ := Tables.mem_zonesOf.mp hz
    exact Option.some.inj (hr.symm.trans hq) ▸ hfeeder
  have hused : s.active.feederUsed r.feeder = true := hfeeder ▸ (List.mem_filter.mp hf).2
  have htrips : (s.restartRecord r).trips = 0 := by
    unfold State.restartRecord ZoneRecord.afterRestart
    split <;> rfl
  refine ⟨r, ⟨s.restartRecord r, .fresh, s.deadTopology z⟩, hr, ?_, ?_⟩
  · show s.restart.zone? z = _
    rw [State.zone?_restart, hr, Option.map_some, if_pos hused]
  · simp [State.restartEntry, verdictEntry, htrips, Evaluation.fresh, Evaluation.mask]

end

/-- Settles O47: the restart is the cleared runtime recomputed, with every zone fresh and no node LIVE. -/
theorem restartKeepsTheTablesAndClearsTheRuntime : Obligations.RestartKeepsTheTablesAndClearsTheRuntime := by
  intro s tag force tripped htake htripped
  have hany : s.anyTripped = true ↔ tripped := by
    simp only [htripped, State.anyTripped, List.any_eq_true, Option.any_eq_true, Zone.isTripped_iff]
  have hforce (hle : force.toNat ≤ 1) : forceParam [force] = some (decide (force = 1)) := flagOf_of_le hle
  refine ⟨fun hlt => ?_, fun hzero ht => ?_, fun hgo => ?_⟩
  · exact refused htake (by rw [show forceParam [force] = none from flagOf_of_lt hlt])
  · refine refused htake ?_
    rw [hforce (by simp [hzero])]
    exact if_pos (by simp [hzero, hany.mpr ht])
  · have hbody : exec (.restartEngine tag [force]) s = .next { s.restart with
        replies := [⟨0x3F, tag, .done, []⟩, ⟨0x00, 0, .done, [2]⟩] } := by
      refine congrArg Host.Outcome.next ((State.takeCommand_of_room htake.1 ..).trans ?_)
      have hgo' : (!decide (force = 1) && s.anyTripped) = false := by
        obtain ⟨-, ht⟩ | hone := hgo
        · rw [Bool.eq_false_iff.mpr (mt hany.mp ht), Bool.and_false]
        · simp [hone]
      have hle : force.toNat ≤ 1 := by obtain ⟨rfl, -⟩ | rfl := hgo <;> decide
      simp only [hforce hle, hgo', Bool.false_eq_true, if_false]
      have hreplies : s.restart.replies = [] := s.restart_outside.replies
      rw [hreplies]
      exact State.flushHeld_of_not_waiting (by simp [State.restart_proof, Proof.idle])
    have ho := s.restart_outside
    have hcapture := State.recomputeAll_capture (s := s.clearRuntime) fun z => by
      rw [State.newTopology_clearRuntime, State.deadTopology_evaluability]
      split <;> exact nofun
    have hslots : s.restart.slots = .all .empty := hcapture.1
    have hmissed : s.restart.missed = 0 := hcapture.2
    refine ⟨_, hbody, ho.active, ho.staged, ho.engine, ho.now, ho.strap, ho.sequence, ho.presence, ho.presenceDeadline,
      ho.controllerTx, ho.sensorTx, ho.rxSensor, ho.rxController, ho.awaitingPresence, ho.awaitingRouting, ho.pending,
      fun i => ?_, fun z => ?_, fun z r hr hf => ?_, fun z r p hr hf hp => ?_, s.restart_verdict_kinds,
      fun v hv => State.mem_restart_verdicts hv, fun f => ?_, ho.forwardFifo, ho.sensorQueue, ho.counters, s.restart_proof,
      fun f => ?_, fun i => ?_, hmissed, s.restart_lines, rfl⟩
    · show s.restart.node? i = _
      rw [← State.node?_clearRuntime, State.node?, State.node?, ho.nodes]
    · show (s.restart.zone? z).isSome = _
      rw [State.zone?_restart, Option.isSome_map]
    · show s.restart.zone? z = _
      rw [State.zone?_restart, hr, Option.map_some, hf]
      rfl
    · show s.restart.zone? z = _
      rw [State.zone?_restart, hr, Option.map_some, if_pos hf, hp]
      rfl
    · show s.restart.feeders.get f = _
      rw [ho.feeders]
      exact Four.get_of _ f
    · show s.restart.rings.get f = _
      rw [ho.rings]
      exact Four.get_all _ f
    · show s.restart.slots.get i = _
      rw [hslots]
      exact Four.get_all _ i

end Sys2Proof.Machine

/-!
A successful ACTIVATE (R39, R57, R103, R110, R138, R150, R160): the exchange of the copies and the hand-offs after it.
-/

namespace Sys2Proof.Machine

/-! ## What raises keep of the entries of a queue (R107) -/

section
variable {e v w : VerdictEntry} {es q : List VerdictEntry}

/-- An entry stays as it is, or takes a raise of its zone. -/
theorem mem_raiseInto_of_mem (hw : w ∈ q) : w ∈ raiseInto e q
    ∨ e.zone = w.zone ∧ { e with history := w.history ||| e.history } ∈ raiseInto e q := by
  induction q with
  | nil => cases hw
  | cons x q ih =>
    by_cases hx : x.zone = e.zone
    · simp only [raiseInto, hx, if_true, List.mem_cons]
      obtain rfl | hw := List.mem_cons.mp hw
      · exact .inr ⟨hx.symm, .inl rfl⟩
      · exact .inl (.inr hw)
    · simp only [raiseInto, hx, if_false, List.mem_cons]
      obtain rfl | hw := List.mem_cons.mp hw
      · exact .inl (.inl rfl)
      · exact (ih hw).imp .inr fun ⟨hz, hm⟩ => ⟨hz, .inr hm⟩

/-- An entry after a raise was there, is the one raised, or is of a zone that had one. -/
theorem mem_of_mem_raiseInto (hv : v ∈ raiseInto e q) : v ∈ q ∨ v = e ∨ v.zone = e.zone ∧ ∃ w ∈ q, w.zone = v.zone := by
  induction q with
  | nil => exact .inr (.inl (List.mem_singleton.mp hv))
  | cons x q ih =>
    by_cases hx : x.zone = e.zone
    · simp only [raiseInto, hx, if_true, List.mem_cons] at hv
      obtain rfl | hv := hv
      · exact .inr (.inr ⟨rfl, x, List.mem_cons_self, hx⟩)
      · exact .inl (List.mem_cons_of_mem _ hv)
    · simp only [raiseInto, hx, if_false, List.mem_cons] at hv
      obtain rfl | hv := hv
      · exact .inl List.mem_cons_self
      · exact (ih hv).imp (List.mem_cons_of_mem _) (.imp id fun ⟨hz, w, hw, hwz⟩ => ⟨hz, w, List.mem_cons_of_mem _ hw, hwz⟩)

/-- Raises of distinct zones: an entry stays as it is, or takes the one raise of its zone. -/
theorem mem_raiseAll_of_mem (h : (es.map (·.zone)).Nodup) (hw : w ∈ q) : w ∈ raiseAll es q
    ∨ ∃ e ∈ es, e.zone = w.zone ∧ { e with history := w.history ||| e.history } ∈ raiseAll es q := by
  induction es generalizing q w with
  | nil => exact .inl hw
  | cons e es ih =>
    obtain ⟨he, hes⟩ := List.nodup_cons.mp h
    obtain hstays | ⟨hz, htakes⟩ := mem_raiseInto_of_mem (e := e) hw
    · exact (ih hes hstays).imp id fun ⟨e', he', hlater⟩ => ⟨e', List.mem_cons_of_mem _ he', hlater⟩
    · refine .inr ⟨e, List.mem_cons_self, hz, (ih hes htakes).resolve_right ?_⟩
      rintro ⟨e', he', hz', -⟩
      exact he (List.mem_map.mpr ⟨e', he', hz'⟩)

theorem mem_raiseAll_other (h : ∀ e ∈ es, v.zone ≠ e.zone) : v ∈ raiseAll es q ↔ v ∈ q := by
  induction es generalizing q with
  | nil => rfl
  | cons e es ih =>
    obtain ⟨he, hes⟩ := List.forall_mem_cons.mp h
    exact (ih hes).trans (mem_raiseInto_other he)

/-- Raises of distinct zones: an entry is one of those raised, or of a zone that had one. -/
theorem mem_of_mem_raiseAll (h : (es.map (·.zone)).Nodup) (hv : v ∈ raiseAll es q) : v ∈ es ∨ ∃ w ∈ q, w.zone = v.zone := by
  induction es generalizing q with
  | nil => exact .inr ⟨v, hv, rfl⟩
  | cons e es ih =>
    obtain ⟨he, hes⟩ := List.nodup_cons.mp h
    by_cases hmem : v ∈ es
    · exact .inl (List.mem_cons_of_mem _ hmem)
    obtain ⟨w, hw, hwz⟩ := (ih hes hv).resolve_left hmem
    obtain hw | rfl | ⟨-, u, hu, huz⟩ := mem_of_mem_raiseInto hw
    · exact .inr ⟨w, hw, hwz⟩
    · have hstays : v ∈ raiseInto w q := by
        have hothers (e' : VerdictEntry) (he' : e' ∈ es) : v.zone ≠ e'.zone :=
          fun hz => he (List.mem_map.mpr ⟨e', he', hz.symm.trans hwz.symm⟩)
        exact (mem_raiseAll_other hothers).mp hv
      obtain hv | rfl | ⟨-, hold⟩ := mem_of_mem_raiseInto hstays
      · exact .inr ⟨v, hv, rfl⟩
      · exact .inl List.mem_cons_self
      · exact .inr hold
    · exact .inr ⟨u, hu, huz.trans hwz⟩

/-- The zones of the entries stay in their places. -/
theorem raiseAll_zones (es q : List VerdictEntry) : q.map (·.zone) <+: (raiseAll es q).map (·.zone) := by
  induction es generalizing q with
  | nil => exact List.prefix_rfl
  | cons e es ih =>
    refine .trans ?_ (ih (raiseInto e q))
    rw [raiseInto_zones]
    split
    · exact List.prefix_rfl
    · exact List.prefix_append _ _

end

/-! ## What SUSPECT triggers change (R142 to R144) -/

/-- From `s` to `t` the capture unit took SUSPECT triggers alone. -/
structure State.SuspectsOnly (s t : State) : Prop where
  active : t.active = s.active
  used : ∀ i, (s.slots.get i).state ≠ .free → t.slots.get i = { s.slots.get i with further := (t.slots.get i).further }
  masked : s.active.header.triggerMask.getLsbD 0 = false → t.slots = s.slots ∧ t.missed = s.missed

section
variable {s t u : State}

theorem State.SuspectsOnly.of_capture (ha : t.active = s.active) (h : t.slots = s.slots) (hm : t.missed = s.missed) :
    s.SuspectsOnly t := ⟨ha, fun i _ => by rw [h], fun _ => ⟨h, hm⟩⟩

theorem State.SuspectsOnly.trans (h : s.SuspectsOnly t) (k : t.SuspectsOnly u) : s.SuspectsOnly u where
  active := k.active.trans h.active
  used i hi := by
    have ht := h.used i hi
    have hu := k.used i (by rw [ht]; exact hi)
    rw [hu, ht]
  masked hm := by
    obtain ⟨hslots, hmissed⟩ := h.masked hm
    obtain ⟨hslots', hmissed'⟩ := k.masked (by rw [h.active]; exact hm)
    exact ⟨hslots'.trans hslots, hmissed'.trans hmissed⟩

theorem State.captureTrigger_used (s : State) (f : Fin 4) (kind : TriggerKind) (subject : Option Nat) {i : Fin 4}
    (hi : (s.slots.get i).state ≠ .free) : (s.captureTrigger f kind subject).slots.get i
      = { s.slots.get i with further := ((s.captureTrigger f kind subject).slots.get i).further } := by
  unfold State.captureTrigger
  split
  · rename_i j hj
    simp only [Four.get_set]
    split
    · rename_i hij
      subst hij
      rfl
    · rfl
  · split
    · rename_i j hj
      have hij : i ≠ j := fun hij => hi (hij ▸ (State.freeSlot_some hj).1)
      simp only [Four.get_set, if_neg hij]
    · rfl

theorem State.raiseTrigger_suspectsOnly (s : State) (f : Fin 4) (subject : Option Nat) :
    s.SuspectsOnly (s.raiseTrigger f .suspect subject) where
  active := by rw [State.raiseTrigger_frame]
  used i hi := by
    unfold State.raiseTrigger
    split
    · exact s.captureTrigger_used f .suspect subject hi
    · rfl
  masked hm := by
    have hnot : s.selects .suspect = false := hm
    simp [State.raiseTrigger, hnot]

theorem State.handOff_suspectsOnly (s : State) (z : Nat) (new : Evaluability) : s.SuspectsOnly (s.handOff z new) := by
  have ha := (s.handOff_outside z new).active
  obtain ⟨hslots, hmissed⟩ | ⟨-, f, hslots, hmissed⟩ := s.handOff_capture z new
  · exact .of_capture ha hslots hmissed
  · exact (s.raiseTrigger_suspectsOnly f (some z)).trans
      (.of_capture (by rw [ha, State.raiseTrigger_frame]) hslots hmissed)

/-- What holds after each hand-off and each replacement holds after the recomputation of every used feeder. -/
theorem State.recomputeAll_induction {P : State → Prop} (hreplace : ∀ t f, P t → P (t.replaceTopology f))
    (hoff : ∀ t z new, P t → P (t.handOff z new)) (h : P s) : P s.recomputeAll := by
  have hoffs (offs : List (Nat × Evaluability)) : ∀ t, P t → P (offs.foldl (fun t off => t.handOff off.1 off.2) t) := by
    induction offs with
    | nil => exact fun _ ht => ht
    | cons off offs ih => exact fun t ht => ih _ (hoff t off.1 off.2 ht)
  have hall (fs : List (Fin 4)) : ∀ t, P t → P (fs.foldl State.recompute t) := by
    induction fs with
    | nil => exact fun _ ht => ht
    | cons f fs ih => exact fun t ht => ih _ (hoffs _ _ (hreplace t f ht))
  exact hall _ s h

theorem State.recomputeAll_suspectsOnly (s : State) : s.SuspectsOnly s.recomputeAll :=
  State.recomputeAll_induction (fun _ _ h => h.trans (.of_capture rfl rfl rfl))
    (fun t z new h => h.trans (t.handOff_suspectsOnly z new)) (.of_capture rfl rfl rfl)

end

/-! ## The machine between the exchange and the hand-offs -/

/-- The state of a successful ACTIVATE after the exchange of the copies, before the recomputations (R160, steps 1 to 5). -/
def State.exchanged (s : State) : State := s.swapTables.reconcileProof s.active

section
variable {s : State} {j : Nat} {r : NodeRec}

theorem State.exchanged_eq (s : State) : s.exchanged = { s.swapTables with proof := s.exchanged.proof } :=
  s.swapTables.reconcileProof_eq s.active

theorem State.exchanged_proof (h : s.proof.state ≠ .zonePending) : s.exchanged.proof = s.proof := by
  have hnot : s.swapTables.proof.state ≠ .zonePending := h
  rw [State.exchanged, State.reconcileProof, if_neg hnot]
  rfl

theorem State.activate_eq (s : State) : s.activate = { s.exchanged.recomputeAll.recomputeLines with
    engine := s.activate.engine, feeders := s.activate.feeders } := State.startRunning_eq _

theorem State.zone?_activate (s : State) (j : Nat) : s.activate.zone? j = s.exchanged.recomputeAll.zone? j := by
  rw [State.activate_eq]
  rfl

theorem State.zone?_exchanged (s : State) (j : Nat) :
    s.exchanged.zone? j = (s.staged.position? j).map (reconcileZone s.active s.staged s.feeders s.zones j) := by
  rw [State.exchanged_eq]
  exact s.zone?_swapTables j

theorem State.exchanged_outside (s : State) : s.swapTables.OutsideZones s.exchanged := by
  rw [State.exchanged_eq]
  constructor <;> rfl

/-- A zone of the new copy after ACTIVATE is the reconciled zone, recomputed where its feeder is used. -/
theorem State.zone?_activate_of (hr : s.staged.position? j = some r) : ∃ now p new, s.activate.zone? j
    = some (if s.staged.feederUsed r.feeder
        then (reconcileZone s.active s.staged s.feeders s.zones j r).recomputed now p new
        else reconcileZone s.active s.staged s.feeders s.zones j r) := by
  have ho := s.exchanged_outside
  have hactive : s.exchanged.active = s.staged := ho.active
  refine ⟨s.exchanged.now, s.exchanged.profile j, s.exchanged.newTopology j, ?_⟩
  have hused : (∃ f ∈ s.exchanged.active.usedFeeders, j ∈ s.exchanged.active.zonesOf f)
      ↔ s.staged.feederUsed r.feeder = true := by
    rw [hactive]
    constructor
    · rintro ⟨f, hf, hz⟩
      obtain ⟨q, hq, rfl⟩ := Tables.mem_zonesOf.mp hz
      obtain rfl := Option.some.inj (hr.symm.trans hq)
      exact (List.mem_filter.mp hf).2
    · exact fun h => ⟨r.feeder, List.mem_filter.mpr ⟨mem_four _, h⟩, Tables.mem_zonesOf.mpr ⟨r, hr, rfl⟩⟩
  rw [State.zone?_activate, State.zone?_recomputeAll, State.zone?_exchanged, hr]
  by_cases h : s.staged.feederUsed r.feeder = true
  · rw [if_pos (hused.mpr h), if_pos h]
    rfl
  · rw [if_neg (mt hused.mp h), if_neg h]
    rfl

theorem State.zone?_activate_isSome (s : State) (j : Nat) :
    (s.activate.zone? j).isSome = (s.staged.position? j).isSome := by
  cases hr : s.staged.position? j with
  | some r =>
    obtain ⟨now, p, new, hj⟩ := State.zone?_activate_of hr
    rw [hj]
    rfl
  | none =>
    rw [State.zone?_activate, State.zone?_recomputeAll, State.zone?_exchanged, hr]
    split <;> rfl

/-! ## Nodes -/

theorem keptNode_eq_none {old new : Tables} (hr : new.node? j = some r)
    (h : ∀ i o, old.node? i = some o → o.address = r.address → o.feeder = r.feeder → o.role ≠ r.role) :
    keptNode old new j = none := by
  rw [keptNode, hr, Option.bind_some, List.find?_eq_none]
  intro i _ hany
  obtain ⟨o, ho, hsame⟩ := (Option.any_eq_true ..).mp hany
  obtain ⟨haddress, hfeeder, hrole⟩ := of_decide_eq_true hsame
  exact h i o ho haddress hfeeder hrole

theorem keptNode_eq_some {old new : Tables} {i : Nat} {o : NodeRec} (hr : new.node? j = some r) (ho : old.node? i = some o)
    (haddress : o.address = r.address) (hfeeder : o.feeder = r.feeder) (hrole : o.role = r.role)
    (hunique : ∀ k q, old.node? k = some q → q.address = r.address → k = i) : keptNode old new j = some i := by
  have hlt : i ∈ old.indices := List.mem_range.mpr (Nat.lt_of_not_le fun hle => by simp [Tables.node?_eq_none_of_le hle] at ho)
  rw [keptNode, hr, Option.bind_some]
  cases hfind : old.indices.find? fun i =>
      (old.node? i).any fun o => decide (o.address = r.address ∧ o.feeder = r.feeder ∧ o.role = r.role) with
  | none => simpa [ho, haddress, hfeeder, hrole] using List.find?_eq_none.mp hfind i hlt
  | some k =>
    have hfound : (old.node? k).any (fun o => decide (o.address = r.address ∧ o.feeder = r.feeder ∧ o.role = r.role)) = true :=
      List.find?_some (p := fun i => (old.node? i).any _) hfind
    obtain ⟨q, hq, hsame⟩ := (Option.any_eq_true ..).mp hfound
    rw [hunique k q hq (of_decide_eq_true hsame).1]

theorem reconcileNode_of_none {old new : Tables} {runs : List (Option NodeRun)} (h : keptNode old new j = none) :
    reconcileNode old new runs j r = .fresh := by
  simp [reconcileNode, h]

theorem reconcileNode_of_some {old new : Tables} {runs : List (Option NodeRun)} {i : Nat} {o : NodeRec} {n : NodeRun}
    (h : keptNode old new j = some i) (ho : old.node? i = some o) (hn : (runs[i]?).join = some n) :
    reconcileNode old new runs j r = n.kept o r := by
  simp [reconcileNode, h, ho, hn]

/-- The channels of a kept node whose voltage sensing changed (R57). -/
def NodeRun.carried (n : NodeRun) (r : NodeRec) : NodeRun :=
  if r.voltageSensing then n else { n with channels := n.channels.map Channel.clearVoltage }

theorem NodeRun.kept_of_eq {n : NodeRun} {o r : NodeRec} (h : o.voltageSensing = r.voltageSensing) : n.kept o r = n :=
  if_pos h

theorem NodeRun.kept_of_ne {n : NodeRun} {o r : NodeRec} (h : o.voltageSensing ≠ r.voltageSensing) :
    n.kept o r = if n.state = .barred then n.carried r
      else { n.carried r with state := .expected, seqExpect := none, silenceDeadline := none, warmUp := 0 } := by
  rw [NodeRun.kept, if_neg h, NodeRun.carried]
  split <;> rfl

theorem NodeRun.carried_eq (n : NodeRun) (r : NodeRec) : n.carried r = { n with channels :=
    (if r.voltageSensing then n.channels else n.channels.map fun c => { c with vLast := 0 }) } := by
  rw [NodeRun.carried]
  split <;> rfl

/-! ## Verdicts -/

theorem State.activate_verdicts (s : State) : s.activate.verdicts
    = raiseAll s.exchanged.recomputeAllEntries (reconcileVerdicts s.active s.staged s.verdicts) := by
  have hverdicts : s.activate.verdicts = s.exchanged.recomputeAll.verdicts := by
    rw [State.activate_eq]
    rfl
  have hbefore : s.exchanged.verdicts = reconcileVerdicts s.active s.staged s.verdicts := by
    rw [State.exchanged_eq]
    rfl
  rw [hverdicts, State.recomputeAll_verdicts, hbefore]

theorem State.mem_exchanged_entries {e : VerdictEntry} (h : e ∈ s.exchanged.recomputeAllEntries) : e.raised = s.now
    ∧ e.history = e.kind.bit ∧ (e.kind = .degraded ∨ e.kind = .restored ∨ e.kind = .absorbed) := by
  obtain ⟨hraised, h⟩ := State.mem_recomputeAllEntries h
  exact ⟨hraised.trans s.exchanged_outside.now, h⟩

theorem mem_reconcileVerdicts {old new : Tables} {q : List VerdictEntry} {v : VerdictEntry} :
    v ∈ reconcileVerdicts old new q ↔ ∃ e ∈ q, ∃ j, keptTo old new e.zone = some j ∧ { e with zone := j } = v := by
  simp only [reconcileVerdicts, List.mem_filterMap, Option.map_eq_some_iff]

/-! ## The command -/

theorem execActivate_of_success {tag : Byte} (htake : s.CanTake) (hvalid : s.staged.failure = none)
    (hkept : s.droppedTripped = none) :
    exec (.activate tag []) s = .next ((s.activate.answer 0x16 tag .done []).flushHeld) := by
  refine congrArg Host.Outcome.next ((State.takeCommand_of_room htake.1 ..).trans ?_)
  simp only [noParams_nil, hvalid, hkept]
  rfl

theorem State.activate_linesFollow (s : State) : s.activate.LinesFollow := by
  have hfollow := s.exchanged.recomputeAll.recomputeLines_linesFollow
  rw [State.activate_eq]
  exact hfollow

/-- Where no zone proof is pending, ACTIVATE leaves the proof record but for the taken-over mark of a pulse (R178). -/
theorem State.activate_proof (h : s.proof.state ≠ .zonePending) :
    s.activate.proof = { s.proof with takenOver := s.activate.proof.takenOver }
      ∧ (s.activate.proof.takenOver = true ↔ s.proof.takenOver = true ∨ ∃ l : Fin 4, s.proof.state = .pulseRunning
          ∧ s.proof.target = some l.val ∧ s.activate.policyCondition l = true) := by
  have hexchanged := State.exchanged_proof h
  have hproof : s.exchanged.recomputeAll.proof = s.proof :=
    (State.recomputeAll_proof (hexchanged ▸ h)).trans hexchanged
  have hpolicy (l : Fin 4) : s.activate.policyCondition l = s.exchanged.recomputeAll.policyCondition l := by
    rw [State.activate_eq]
    rfl
  have hactivate : s.activate.proof = s.exchanged.recomputeAll.recomputeLines.proof := by
    rw [State.activate_eq]
  refine ⟨?_, ?_⟩
  · have hlines := congrArg State.proof s.exchanged.recomputeAll.recomputeLines_eq
    rw [hactivate]
    exact hlines.trans (by rw [hproof])
  · rw [hactivate, State.recomputeLines_takenOver_iff, hproof]
    simp only [State.pulseOn_iff, hproof, hpolicy, and_assoc]

end

end Sys2Proof.Machine

/-!
What a successful ACTIVATE makes of the machine and of each zone (R81, R84, R102, R103, R159, R160).
-/

namespace Sys2Proof.Machine

section
variable {s : State} {j : Nat} {r : NodeRec}

/-- A node of the new copy: new where no record of the old copy is its own, kept where one is, and it alone has its address. -/
theorem reconcileNode_cases {old new : Tables} {runs : List (Option NodeRun)} (hr : new.node? j = some r) :
    ((∀ i o, old.node? i = some o → o.address = r.address → o.feeder = r.feeder → o.role ≠ r.role) →
        reconcileNode old new runs j r = .fresh)
    ∧ ∀ i o n c, old.node? i = some o → (runs[i]?).join = some n → o.address = r.address → o.feeder = r.feeder →
      o.role = r.role → (∀ k q, old.node? k = some q → q.address = r.address → k = i) →
      c = (if r.voltageSensing then n.channels else n.channels.map fun c => { c with vLast := 0 }) →
      (o.voltageSensing = r.voltageSensing → reconcileNode old new runs j r = n)
      ∧ (o.voltageSensing ≠ r.voltageSensing → n.state = .barred → reconcileNode old new runs j r = { n with channels := c })
      ∧ (o.voltageSensing ≠ r.voltageSensing → n.state ≠ .barred → reconcileNode old new runs j r = { n with
          channels := c, state := .expected, seqExpect := none, silenceDeadline := none, warmUp := 0 }) := by
  refine ⟨fun h => reconcileNode_of_none (keptNode_eq_none hr h), fun i o n c ho hn haddress hfeeder hrole hunique hc => ?_⟩
  rw [reconcileNode_of_some (keptNode_eq_some hr ho haddress hfeeder hrole hunique) ho hn]
  have hcarried : n.carried r = { n with channels := c } := by rw [n.carried_eq, hc]
  refine ⟨NodeRun.kept_of_eq, fun hne hbarred => ?_, fun hne hbarred => ?_⟩
  · rw [NodeRun.kept_of_ne hne, if_pos hbarred, hcarried]
  · rw [NodeRun.kept_of_ne hne, if_neg hbarred, hcarried]

theorem State.startRunning_of_running {t : State} (h : t.engine = .running) : t.startRunning = t := by
  simp [State.startRunning, h]

/-- A later ACTIVATE keeps the evaluation timers. -/
theorem State.activate_of_running (h : s.engine = .running) :
    s.activate.engine = .running ∧ s.activate.feeders = s.feeders := by
  have ho := s.exchanged_outside.trans s.exchanged.recomputeAll_outside
  have heq : s.activate = s.exchanged.recomputeAll.recomputeLines := State.startRunning_of_running (ho.engine.trans h)
  rw [heq]
  exact ⟨ho.engine.trans h, ho.feeders⟩

/-- The first ACTIVATE arms them (R60, R162). -/
theorem State.activate_of_unconfigured (h : s.engine = .unconfigured) : s.activate.engine = .running ∧ ∀ f,
    s.activate.feeders.get f
      = { s.feeders.get f with deadline := some (after s.now (s.staged.header.periods.get f)) } := by
  have ho := (s.exchanged_outside.trans s.exchanged.recomputeAll_outside).trans (State.recomputeLines_outside _)
  have heq : s.activate = { s.exchanged.recomputeAll.recomputeLines.armAll with engine := .running } :=
    if_pos (ho.engine.trans h)
  rw [heq]
  refine ⟨rfl, fun f => ?_⟩
  simp only [State.armAll, Four.get_of, ho.feeders, ho.now, ho.active]
  rfl

/-- What SUSPECT triggers of the hand-offs leave of the slots (R150). -/
theorem State.activate_slots (s : State) :
    (∀ i, (s.slots.get i).state ≠ .free →
      s.activate.slots.get i = { s.slots.get i with further := (s.activate.slots.get i).further })
    ∧ (s.staged.header.triggerMask.getLsbD 0 = false → s.activate.slots = s.slots ∧ s.activate.missed = s.missed) := by
  have h := s.exchanged.recomputeAll_suspectsOnly
  have hslots : s.exchanged.slots = s.slots ∧ s.exchanged.missed = s.missed := by
    rw [State.exchanged_eq]
    exact ⟨rfl, rfl⟩
  have hafter : s.activate.slots = s.exchanged.recomputeAll.slots ∧ s.activate.missed = s.exchanged.recomputeAll.missed := by
    rw [State.activate_eq]
    exact ⟨rfl, rfl⟩
  have hmask : s.exchanged.active = s.staged := s.exchanged_outside.active
  rw [hafter.1, hafter.2, ← hslots.1, ← hslots.2, ← hmask]
  exact ⟨h.used, h.masked⟩

/-- The entries of kept zones stay under their new numbers, and the hand-offs touch or join them (R110). -/
theorem State.activate_entries (s : State) :
    (s.verdicts.filterMap fun e => keptTo s.active s.staged e.zone) <+: s.activate.verdicts.map (·.zone)
    ∧ (∀ e j, e ∈ s.verdicts → keptTo s.active s.staged e.zone = some j → ∃ v ∈ s.activate.verdicts, v.zone = j
        ∧ (v = { e with zone := j } ∨ v.raised = s.now ∧ v.history = e.history ||| v.kind.bit
            ∧ (v.kind = .degraded ∨ v.kind = .restored ∨ v.kind = .absorbed)))
    ∧ ∀ v ∈ s.activate.verdicts, (∃ e ∈ s.verdicts, keptTo s.active s.staged e.zone = some v.zone)
        ∨ v.raised = s.now ∧ v.history = v.kind.bit ∧ (v.kind = .degraded ∨ v.kind = .restored ∨ v.kind = .absorbed) := by
  have hnodup := s.exchanged.recomputeAllEntries_nodup
  rw [State.activate_verdicts]
  refine ⟨?_, fun e j he hj => ?_, fun v hv => ?_⟩
  · have hzones := reconcileVerdicts_zones s.active s.staged s.verdicts
    rw [List.filterMap_map] at hzones
    exact hzones ▸ raiseAll_zones _ _
  · obtain hstays | ⟨v, hv, hz, htakes⟩ := mem_raiseAll_of_mem hnodup (mem_reconcileVerdicts.mpr ⟨e, he, j, hj, rfl⟩)
    · exact ⟨_, hstays, rfl, .inl rfl⟩
    · obtain ⟨hraised, hhistory, hkind⟩ := State.mem_exchanged_entries hv
      exact ⟨_, htakes, hz, .inr ⟨hraised, congrArg (e.history ||| ·) hhistory, hkind⟩⟩
  · obtain hv | ⟨w, hw, hz⟩ := mem_of_mem_raiseAll hnodup hv
    · exact .inr (State.mem_exchanged_entries hv)
    · obtain ⟨e, he, j, hj, rfl⟩ := mem_reconcileVerdicts.mp hw
      exact .inl ⟨e, he, hz ▸ hj⟩

/-- A command's answer, and a completion after it, move the proof record and the reply queue alone. -/
theorem State.answer_flushHeld (t : State) (code tag : Byte) (status : Status) (data : List Byte) :
    ∃ p q, (t.answer code tag status data).flushHeld = { t with proof := p, replies := q }
      ∧ (t.LinesFollow → State.LinesFollow { t with proof := p, replies := q })
      ∧ (t.proof.state ≠ .completionWaiting → p = t.proof ∧ q = t.replies ++ [⟨code, tag, status, data⟩]) := by
  have hflush : (t.answer code tag status data).flushHeld = { t with
      proof := (t.answer code tag status data).flushHeld.proof
      replies := (t.answer code tag status data).flushHeld.replies } := by
    obtain h | ⟨-, -, h⟩ := (t.answer code tag status data).flushHeld_cases <;> rw [h] <;> rfl
  refine ⟨_, _, hflush, fun h => ?_, fun h => ?_⟩
  · rw [← hflush]
    exact State.LinesFollow.flushHeld (s := t.answer code tag status data) h
  · rw [State.flushHeld_of_not_waiting (s := t.answer code tag status data) h]
    exact ⟨rfl, rfl⟩

/-- ACTIVATE answers with the exchanged machine. -/
theorem execActivate_taken {tag : Byte} (htake : s.CanTake) (hvalid : s.staged.failure = none)
    (hkept : s.droppedTripped = none) : ∃ p q, exec (.activate tag []) s = .next { s.activate with proof := p, replies := q }
      ∧ State.LinesFollow { s.activate with proof := p, replies := q }
      ∧ (s.proof.state ≠ .zonePending → p = s.activate.proof ∧ q = s.replies ++ [⟨0x16, tag, .done, []⟩]) := by
  obtain ⟨p, q, heq, hfollow, hanswer⟩ := s.activate.answer_flushHeld 0x16 tag .done []
  refine ⟨p, q, (execActivate_of_success htake hvalid hkept).trans (congrArg _ heq), hfollow s.activate_linesFollow,
    fun hp => ?_⟩
  obtain ⟨hp', hq⟩ := hanswer (by rw [(State.activate_proof hp).1]; exact htake.2)
  exact ⟨hp', hq.trans (congrArg (· ++ _) s.activate_swapped.replies)⟩

theorem State.node?_activate (s : State) (j : Nat) :
    s.activate.node? j = (s.staged.node? j).map (reconcileNode s.active s.staged s.nodes j) := by
  rw [← s.node?_swapTables, State.node?, State.node?, s.activate_swapped.nodes]

theorem State.activate_engine (s : State) : s.activate.engine = .running := by
  cases he : s.engine with
  | running => exact (State.activate_of_running he).1
  | unconfigured => exact (State.activate_of_unconfigured he).1

end

/-- Settles O10: the exchange, then the hand-offs of the recomputations, then the lines and the first ACTIVATE's timers. -/
theorem activateSwapsAndReconciles : Obligations.ActivateSwapsAndReconciles := by
  intro s tag htake hvalid hkept
  obtain ⟨p, q, hexec, hfollow, hproof⟩ := execActivate_taken (tag := tag) htake hvalid hkept
  have ho := s.activate_swapped
  have hnode := s.node?_activate
  have hzones := s.zone?_activate_isSome
  have hmark (hp : s.proof.state ≠ .zonePending) := State.activate_proof hp
  have hrunning := s.activate_engine
  have hlater (he : s.engine = .running) := (State.activate_of_running he).2
  have hfirst (he : s.engine = .unconfigured) := (State.activate_of_unconfigured he).2
  obtain ⟨hprefix, hentries, hothers⟩ := s.activate_entries
  obtain ⟨hused, hmasked⟩ := s.activate_slots
  generalize s.activate = t at *
  refine ⟨_, hexec, ho.active, ho.staged, hrunning, ho.nodes, fun j hj => (hnode j).trans (by rw [hj]; rfl),
    fun j r hr => ⟨_, (hnode j).trans (by rw [hr]; rfl), reconcileNode_cases hr⟩, hzones, hprefix, hentries, hothers, hlater,
    hfirst, hfollow, fun hp => ?_, ho.now, ho.strap, ho.presence, ho.presenceDeadline, ho.rxSensor, ho.rxController,
    ho.awaitingPresence, ho.awaitingRouting, ho.forwardFifo, ho.sensorQueue, ho.controllerTx, ho.sensorTx, ho.sequence,
    ho.counters, ho.rings, hused, hmasked, ho.pending⟩
  obtain ⟨rfl, rfl⟩ := hproof hp
  exact ⟨rfl, hmark hp⟩

end Sys2Proof.Machine

/-!
What a successful ACTIVATE makes of each zone (R81, R84, R102, R103, R159).
-/

namespace Sys2Proof.Machine

/-! ## One zone through a recomputation -/

section
variable {x : Zone} {now : Time} {p : ZoneProfile} {new : Topology} {e : Evaluability}

theorem Zone.handedOff_topo (x : Zone) (now : Time) (p : ZoneProfile) (e : Evaluability) :
    (x.handedOff now p e).topo = x.topo := by
  unfold Zone.handedOff
  split
  · rfl
  · split
    · rfl
    · split <;> rfl

/-- Evidence stands through a hand-off, but at an entry to ABSORBED. -/
theorem Zone.handedOff_evidence (x : Zone) (now : Time) (p : ZoneProfile) (e : Evaluability) :
    (x.handedOff now p e).eval.evidence = x.eval.evidence
      ∨ (x.handedOff now p e).run.state = .absorbed ∧ (x.handedOff now p e).eval.evidence = 0 := by
  unfold Zone.handedOff
  split
  · exact .inl rfl
  · split
    · exact .inl rfl
    · split
      · exact .inl rfl
      · exact .inr ⟨rfl, rfl⟩
      · exact .inl rfl
      · exact .inl rfl
      · exact .inl rfl

theorem Zone.withTopology_run (x : Zone) (new : Topology) : (x.withTopology new).run = x.run := rfl

theorem Zone.withTopology_evidence (x : Zone) (new : Topology) : (x.withTopology new).eval.evidence = x.eval.evidence := by
  unfold Zone.withTopology
  split <;> rfl

theorem Zone.recomputed_topo (x : Zone) (now : Time) (p : ZoneProfile) (new : Topology) :
    (x.recomputed now p new).topo = new := by
  unfold Zone.recomputed
  split
  · rfl
  · exact Zone.handedOff_topo _ now p _

theorem Zone.recomputed_evidence (x : Zone) (now : Time) (p : ZoneProfile) (new : Topology) :
    (x.recomputed now p new).eval.evidence = x.eval.evidence
      ∨ (x.recomputed now p new).run.state = .absorbed ∧ (x.recomputed now p new).eval.evidence = 0 := by
  unfold Zone.recomputed
  split
  · exact .inl (x.withTopology_evidence new)
  · exact (Zone.handedOff_evidence (x.withTopology new) now p _).imp_left (·.trans (x.withTopology_evidence new))

/-- A zone whose evaluability stands keeps its state record and its evidence. -/
theorem Zone.recomputed_of_same (h : new.evaluability = x.topo.evaluability) :
    (x.recomputed now p new).run = x.run ∧ (x.recomputed now p new).eval.evidence = x.eval.evidence := by
  rw [Zone.recomputed, if_pos h.symm]
  exact ⟨rfl, x.withTopology_evidence new⟩

theorem Zone.handedOff_of_tripped (h : x.isTripped = true) : x.handedOff now p e = x := by simp [Zone.handedOff, h]

/-- A tripped zone keeps its state record and its evidence (R91). -/
theorem Zone.recomputed_of_tripped (h : x.isTripped = true) :
    (x.recomputed now p new).run = x.run ∧ (x.recomputed now p new).eval.evidence = x.eval.evidence := by
  have htripped : (x.withTopology new).isTripped = true := h
  unfold Zone.recomputed
  split
  · exact ⟨rfl, x.withTopology_evidence new⟩
  · rw [Zone.handedOff_of_tripped htripped]
    exact ⟨rfl, x.withTopology_evidence new⟩

/-- A zone without evidence, trip or timer, which stands as its evaluability says (R81, R102). -/
structure Zone.Unmarked (y : Zone) : Prop where
  eval : y.eval = .fresh
  trips : y.run.trips = 0
  memory : y.run.memoryDeadline = none
  step : y.run.stepDeadline = none
  wouldTrip : y.run.wouldTrip = false
  stands : (y.run.state, y.run.reason) = (match y.topo.evaluability with
    | .evaluable => (.normal, none)
    | .absorbed => (.absorbed, none)
    | .headLost => (.degraded, some .headLost)
    | .boundaryOverflow => (.degraded, some .boundaryOverflow))

theorem Zone.unmarked_fresh (z : Nat) : (Zone.fresh z).Unmarked := ⟨rfl, rfl, rfl, rfl, rfl, rfl⟩

theorem Zone.unmarked_recomputed (z : Nat) (now : Time) (p : ZoneProfile) (new : Topology) :
    ((Zone.fresh z).recomputed now p new).Unmarked := by
  have hfresh (e : Evaluability) (he : new.evaluability = e) : ((Zone.fresh z).recomputed now p new).Unmarked := by
    unfold Zone.recomputed
    rw [Zone.withTopology_fresh]
    cases e with
    | evaluable =>
      rw [if_pos (show (Zone.fresh z).topo.evaluability = _ from he.symm)]
      exact ⟨rfl, rfl, rfl, rfl, rfl, by rw [he]; rfl⟩
    | absorbed | headLost | boundaryOverflow =>
      rw [if_neg (show (Zone.fresh z).topo.evaluability ≠ _ by rw [he]; exact nofun), he]
      exact ⟨rfl, rfl, rfl, rfl, rfl, by rw [Zone.handedOff_topo, he]; rfl⟩
  exact hfresh _ rfl

end

/-! ## Kept zones -/

section
variable {s : State} {z j : Nat} {x : Zone} {r : NodeRec}

theorem keptZone_position {old new : Tables} (h : keptZone old new j = some z) : ∃ r, new.position? j = some r := by
  obtain ⟨r, hr, -⟩ := Option.bind_eq_some_iff.mp h
  exact ⟨r, hr⟩

theorem reconcileZone_of_kept {old new : Tables} {feeders : Four Feeder} {zones : List (Option Zone)}
    (h : keptZone old new j = some z) (hx : (zones[z]?).join = some x) : reconcileZone old new feeders zones j r
      = x.capTrips (new.zoneProfile (profileNumber (feeders.get r.feeder).effective r)).lockoutLimit := by
  simp [reconcileZone, h, hx]

theorem reconcileZone_of_new {old new : Tables} {feeders : Four Feeder} {zones : List (Option Zone)}
    (h : keptZone old new j = none) : reconcileZone old new feeders zones j r = .fresh j := by
  simp [reconcileZone, h]

/-- No tripped zone is dropped (R159). -/
theorem State.kept_of_tripped (hmatch : s.RecordsMatch) (h : s.droppedTripped = none) (hx : s.zone? z = some x)
    (ht : x.isTripped = true) : ∃ j, keptTo s.active s.staged z = some j := by
  refine Option.isSome_iff_exists.mp ?_
  have hposition : (s.active.position? z).isSome = true := by rw [← hmatch.zones, hx]; rfl
  obtain ⟨r, hr⟩ := Option.isSome_iff_exists.mp hposition
  have hmem : z ∈ s.active.indices := List.mem_range.mpr (Tables.lt_of_position? hr)
  simpa [hx, ht, Option.isSome_iff_ne_none] using List.find?_eq_none.mp h z hmem

/-- Where a kept zone goes, and what of it is carried there (R103). -/
theorem State.zone?_activate_kept (hx : s.zone? z = some x) (hj : keptTo s.active s.staged z = some j)
    (hr : s.staged.position? j = some r) {capped : Zone}
    (hcap : capped = x.capTrips (s.staged.zoneProfile (Machine.profileNumber (s.feeders.get r.feeder).effective r)).lockoutLimit) :
    ∃ y, s.activate.zone? j = some y ∧ (y = capped ∨ ∃ now p new, y = capped.recomputed now p new) := by
  obtain ⟨now, p, new, hactivate⟩ := State.zone?_activate_of hr
  rw [reconcileZone_of_kept (keptTo_some hj).2 hx, ← hcap] at hactivate
  split at hactivate
  · exact ⟨_, hactivate, .inr ⟨now, p, new, rfl⟩⟩
  · exact ⟨_, hactivate, .inl rfl⟩

/-- A zone that is not kept is fresh, and then stands as its evaluability says (R81). -/
theorem State.zone?_activate_new (hr : s.staged.position? j = some r) (hnew : keptZone s.active s.staged j = none) :
    ∃ y, s.activate.zone? j = some y ∧ y.Unmarked := by
  obtain ⟨now, p, new, hactivate⟩ := State.zone?_activate_of hr
  rw [reconcileZone_of_new hnew] at hactivate
  split at hactivate
  · exact ⟨_, hactivate, Zone.unmarked_recomputed j now p new⟩
  · exact ⟨_, hactivate, Zone.unmarked_fresh j⟩

end

/-- Settles O11: each zone is the reconciled one, recomputed. -/
theorem activateCarriesEveryKeptZoneOver : Obligations.ActivateCarriesEveryKeptZoneOver := by
  intro s tag htake hmatch hvalid hdropped
  obtain ⟨p, q, hexec, -, -⟩ := execActivate_taken (tag := tag) htake hvalid hdropped
  have hkeeps (z j : Nat) (x : Zone) (r : NodeRec) := State.zone?_activate_kept (s := s) (z := z) (j := j) (x := x) (r := r)
  have hnews (j : Nat) (r : NodeRec) := State.zone?_activate_new (s := s) (j := j) (r := r)
  generalize s.activate = t at *
  refine ⟨_, hexec, fun z x hx ht => ?_, fun z j x r hx hj hr => ?_, fun j r hr hnew => ?_⟩
  · obtain ⟨j, hj⟩ := State.kept_of_tripped hmatch hdropped hx ht
    obtain ⟨r, hr⟩ := keptZone_position (keptTo_some hj).2
    obtain ⟨y, hy, hcases⟩ := hkeeps z j x r hx hj hr rfl
    refine ⟨j, y, hj, hy, ?_⟩
    obtain rfl | ⟨now, p, new, rfl⟩ := hcases
    · exact ⟨rfl, rfl, rfl⟩
    · obtain ⟨hrun, hevidence⟩ := Zone.recomputed_of_tripped (now := now) (p := p) (new := new)
        (x := x.capTrips (s.staged.zoneProfile (Machine.profileNumber (s.feeders.get r.feeder).effective r)).lockoutLimit) ht
      rw [hrun]
      exact ⟨rfl, rfl, hevidence⟩
  · obtain ⟨q, hq⟩ := keptZone_position (keptTo_some hj).2
    obtain rfl := Option.some.inj (hr.symm.trans (Tables.node?_of_position? hq))
    obtain ⟨y, hy, hcases⟩ := hkeeps z j x r hx hj hq rfl
    generalize hlimit : (s.staged.zoneProfile (Machine.profileNumber (s.feeders.get r.feeder).effective r)).lockoutLimit = limit
    rw [hlimit] at hcases
    refine ⟨y, hy, ?_⟩
    obtain rfl | ⟨now, p, new, rfl⟩ := hcases
    · exact ⟨rfl, rfl, rfl, fun ph => ⟨rfl, id⟩, .inl rfl, fun _ => ⟨rfl, rfl⟩⟩
    · have hcarries := (x.capTrips limit).carries_recomputed now p new
      refine ⟨hcarries.trips, hcarries.memory, hcarries.eval, fun ph => ⟨hcarries.phase ph, hcarries.reseed ph⟩,
        (x.capTrips limit).recomputed_evidence now p new, fun hsame => ?_⟩
      rw [Zone.recomputed_topo] at hsame
      obtain ⟨hrun, hevidence⟩ := Zone.recomputed_of_same (x := x.capTrips limit) (now := now) (p := p) hsame
      refine ⟨?_, hevidence⟩
      rw [hrun]
      rfl
  · obtain ⟨y, hy, hunmarked⟩ := hnews j r hr hnew
    exact ⟨y, hy, hunmarked.eval, hunmarked.trips, hunmarked.memory, hunmarked.step, hunmarked.wouldTrip, hunmarked.stands⟩

end Sys2Proof.Machine

/-!
The evaluation of a zone on its record (R66 to R68, R77, R78), and the outcome of an evaluation (R79, R85 to R90, R100).
-/

namespace Sys2Proof.Machine

/-! ## Scores (R77) -/

theorem score_le_zoneScore (t : PerPhase PhaseEval) (ph : Phase) : (t.get ph).score ≤ zoneScore t := by
  cases ph
  · exact Nat.le_max_left ..
  · exact (Nat.le_max_left ..).trans (Nat.le_max_right ..)
  · exact (Nat.le_max_right ..).trans (Nat.le_max_right ..)

theorem exists_score_eq_zoneScore (t : PerPhase PhaseEval) : ∃ ph, (t.get ph).score = zoneScore t := by
  obtain ha | hbc := max_choice t.a.score (max t.b.score t.c.score)
  · exact ⟨.a, ha.symm⟩
  · obtain hb | hc := max_choice t.b.score t.c.score
    · exact ⟨.b, (hbc.trans hb).symm⟩
    · exact ⟨.c, (hbc.trans hc).symm⟩

theorem faultedPhase_of_zero {t : PerPhase PhaseEval} (h : zoneScore t = 0) : faultedPhase t = none := if_pos h

/-- The first phase, in the order A, B, C, whose score is the zone score. -/
theorem faultedPhase_of_pos {t : PerPhase PhaseEval} (h : 0 < zoneScore t) : faultedPhase t =
    if t.a.score = zoneScore t then some .a else if t.b.score = zoneScore t then some .b else some .c := by
  have hmax : zoneScore t = max t.a.score (max t.b.score t.c.score) := rfl
  rw [faultedPhase, if_neg (Nat.ne_of_gt h)]
  by_cases ha : t.a.score = zoneScore t
  · rw [if_pos ha]
    simp [phases, PerPhase.get, ha]
  · by_cases hb : t.b.score = zoneScore t
    · rw [if_neg ha, if_pos hb]
      simp [phases, PerPhase.get, ha, hb]
    · have hc : t.c.score = zoneScore t := by omega
      rw [if_neg ha, if_neg hb]
      simp [phases, PerPhase.get, ha, hb, hc]

theorem faultedPhase_eq_none_iff {t : PerPhase PhaseEval} : faultedPhase t = none ↔ zoneScore t = 0 := by
  refine ⟨fun h => ?_, faultedPhase_of_zero⟩
  by_contra hne
  rw [faultedPhase_of_pos (Nat.pos_of_ne_zero hne)] at h
  split at h
  · cases h
  · split at h <;> cases h

theorem faultedPhase_eq_some_iff {t : PerPhase PhaseEval} {ph : Phase} : faultedPhase t = some ph ↔
    0 < zoneScore t ∧ (t.get ph).score = zoneScore t
      ∧ (ph ≠ .a → t.a.score < zoneScore t) ∧ (ph = .c → t.b.score < zoneScore t) := by
  have ha := score_le_zoneScore t .a
  have hb := score_le_zoneScore t .b
  obtain ⟨top, htop⟩ := exists_score_eq_zoneScore t
  obtain hzero | hpos := Nat.eq_zero_or_pos (zoneScore t)
  · rw [faultedPhase_of_zero hzero]
    exact ⟨nofun, fun h => absurd h.1 (by omega)⟩
  · rw [faultedPhase_of_pos hpos]
    generalize zoneScore t = m at *
    simp only [PerPhase.get] at ha hb htop ⊢
    by_cases hfirst : t.a.score = m
    · cases ph <;> simp [hfirst, hpos]
    · by_cases hsecond : t.b.score = m
      · cases ph <;> simp [hfirst, hsecond, hpos]
        omega
      · have hthird : t.c.score = m := by
          cases top with
          | a => exact absurd htop hfirst
          | b => exact absurd htop hsecond
          | c => exact htop
        cases ph <;> simp [hfirst, hsecond, hthird, hpos]
        omega

/-! ## One phase (R66 to R68) -/

section
variable {p : ZoneProfile} {u : UnitView} {ph : Phase} {was : ZoneState} {ins : ZoneInputs} {x : PhaseEval}

theorem upstreamLive_iff : upstreamLive p u ph = true ↔
    (u.sensing = true ∧ p.vLive ≤ (u.channels.get ph).vLast)
      ∨ (u.sensing = false ∧ u.iMin ≤ (u.channels.get ph).iFast16 / 16) := by
  cases hs : u.sensing with
  | true => simp [upstreamLive, hs]
  | false =>
    rw [upstreamLive, hs, if_neg Bool.false_ne_true, decide_eq_true_iff]
    simp [UnitView.current]

theorem evalPhase_of_dead (h : upstreamLive p ins.up ph = false) : (evalPhase p was ins ph x).indications = .none
    ∧ (evalPhase p was ins ph x).score = 0 ∧ (evalPhase p was ins ph x).baseline = x.baseline
    ∧ (evalPhase p was ins ph x).reseed = x.reseed := by
  simp [evalPhase, h, indicationsOf, baselineStep, scoreOf, Indications.none]

theorem evalPhase_of_live (h : upstreamLive p ins.up ph = true) : (evalPhase p was ins ph x).reseed = false
    ∧ (x.reseed = true → (evalPhase p was ins ph x).baseline = (evalPhase p was ins ph x).residual
        ∧ (evalPhase p was ins ph x).excess = 0)
    ∧ (x.reseed = false → was = .normal → (evalPhase p was ins ph x).baseline
        = x.baseline + Int.tdiv ((evalPhase p was ins ph x).residual - x.baseline) (2 ^ p.kb))
    ∧ (x.reseed = false → was = .suspect → (evalPhase p was ins ph x).baseline = x.baseline) := by
  refine ⟨by simp [evalPhase, h], fun hr => ?_, fun hr hw => ?_, fun hr hw => ?_⟩
  · simp [evalPhase, h, hr, baselineStep]
  · simp [evalPhase, h, hr, hw, baselineStep, truncDiv]
  · simp [evalPhase, h, hr, hw, baselineStep]

end

/-- Settles O32: phase by phase, then the zone score and what it makes of the evidence. -/
theorem phasesScoreAndEvidenceMoves : Obligations.PhasesScoreAndEvidenceMoves := by
  intro e t p was now ins ht
  have hphase (ph : Phase) : t.perPhase.get ph = evalPhase p was ins ph (e.perPhase.get ph) := by
    rw [ht]
    exact PerPhase.get_of _ ph
  have hscore : t.score = zoneScore t.perPhase := by rw [ht]; rfl
  have hfaulted : t.faulted = faultedPhase t.perPhase := by rw [ht]; rfl
  have hevidence : t.evidence = evidenceStep p e.evidence t.score := by rw [ht]; rfl
  refine ⟨fun ph => upstreamLive_iff, fun ph x y hx hy => ?_, ?_⟩
  · rw [hphase ph, ← hx] at hy
    subst hy
    refine ⟨fun above below ha hb => ?_, rfl, evalPhase_of_dead, evalPhase_of_live, rfl⟩
    rw [ha, hb]
    rfl
  · rw [hscore, hfaulted]
    refine ⟨score_le_zoneScore _, exists_score_eq_zoneScore _, faultedPhase_eq_none_iff, fun ph => faultedPhase_eq_some_iff,
      fun hpos => ?_, fun hzero => ?_, by rw [ht]; rfl, by rw [ht]; rfl⟩
    · rw [hevidence, evidenceStep, hscore, if_neg (Nat.ne_of_gt hpos)]
    · rw [hevidence, evidenceStep, hscore, if_pos hzero, Nat.zero_max]

end Sys2Proof.Machine

/-!
The outcome of an evaluation (R79, R85 to R90, R100), and the zones of a feeder evaluated one after another (R61).
-/

namespace Sys2Proof.Machine

/-! ## What a trigger reads -/

section
variable {s t : State} {z : Nat} {x : Zone} {r : NodeRec}

/-- A trigger reads the ACTIVE copy, the slots, the rings, the missed count and the time. -/
theorem State.raiseTrigger_congr (ha : t.active = s.active) (hs : t.slots = s.slots) (hr : t.rings = s.rings)
    (hm : t.missed = s.missed) (hn : t.now = s.now) (f : Fin 4) (kind : TriggerKind) (subject : Option Nat) :
    (t.raiseTrigger f kind subject).slots = (s.raiseTrigger f kind subject).slots
      ∧ (t.raiseTrigger f kind subject).missed = (s.raiseTrigger f kind subject).missed := by
  have hselects : t.selects kind = s.selects kind := by cases kind <;> simp [State.selects, ha]
  have hfilling : t.fillingSlot f = s.fillingSlot f := by simp [State.fillingSlot, hs]
  have hfree : t.freeSlot = s.freeSlot := by simp [State.freeSlot, hs]
  have hnew : t.newSlot f kind subject = s.newSlot f kind subject := by simp [State.newSlot, ha, hr, hn]
  unfold State.raiseTrigger State.captureTrigger
  rw [hselects, hfilling, hfree, hnew]
  cases s.selects kind with
  | false => exact ⟨hs, hm⟩
  | true => cases s.fillingSlot f with
    | some i => simp [hs, hm]
    | none => cases s.freeSlot <;> simp [hs, hm]

/-! ## A zone by the decision taken (R79) -/

/-- What a decision makes of a zone. -/
def Zone.decided (x : Zone) (now : Time) (p : ZoneProfile) : Decision → Zone
  | .stay => x
  | .suspect => { x with run := x.run.toSuspect now p }
  | .suspectWouldTrip => { x with run := { x.run.toSuspect now p with wouldTrip := true } }
  | .wouldTrip => { x with run := { x.run with wouldTrip := true } }
  | .confirm => { x with run := x.run.confirmed p }
  | .normal => { x with run := x.run.toNormal }

theorem State.raiseWouldTrip_of_noted (hx : s.zone? z = some x) (h : x.run.wouldTrip = true) : s.raiseWouldTrip z = s := by
  simp [State.raiseWouldTrip, hx, h]

theorem State.raiseWouldTrip_of_unnoted (hx : s.zone? z = some x) (h : x.run.wouldTrip = false) :
    s.raiseWouldTrip z = (s.modRun z fun r => { r with wouldTrip := true }).raise z .wouldTrip := by
  simp [State.raiseWouldTrip, hx, h]

theorem State.zone?_raiseWouldTrip (hx : s.zone? z = some x) :
    (s.raiseWouldTrip z).zone? z = some { x with run := { x.run with wouldTrip := true } } := by
  cases h : x.run.wouldTrip with
  | false => rw [State.raiseWouldTrip_of_unnoted hx h, State.zone?_raise, State.zone?_modRun, if_pos rfl, hx]; rfl
  | true =>
    rw [State.raiseWouldTrip_of_noted hx h, hx, ← h]

/-- A confirm at a zone that exists, event by event. -/
theorem State.confirm_of_some (hx : s.zone? z = some x) : s.confirm z
    = ((((s.modRun z fun r => r.confirmed (s.profile z)).raise z (confirmKind (s.profile z) x.run.trips)).abandonProof
        z).recomputeLines).raiseTrigger (s.feederOf z) .trip (some z) := by
  simp only [State.confirm, hx]

theorem State.confirm_zones (hx : s.zone? z = some x) :
    (s.confirm z).zones = (s.modRun z fun r => r.confirmed (s.profile z)).zones := by
  rw [State.confirm_of_some hx, State.raiseTrigger_zones, State.recomputeLines_zones, State.abandonProof_zones]
  rfl

theorem State.zone?_takeDecision (hx : s.zone? z = some x) (d : Decision) :
    (s.takeDecision z d).zone? z = some (x.decided s.now (s.profile z) d) := by
  have hsuspect : (s.enterSuspect z).zone? z = some { x with run := x.run.toSuspect s.now (s.profile z) } := by
    rw [State.zone?_enterSuspect, if_pos rfl, hx]
    rfl
  cases d with
  | stay => exact hx
  | suspect => exact hsuspect
  | suspectWouldTrip => exact State.zone?_raiseWouldTrip hsuspect
  | wouldTrip => exact State.zone?_raiseWouldTrip hx
  | confirm =>
    have hzones : (s.confirm z).zone? z = (s.modRun z fun r => r.confirmed (s.profile z)).zone? z := by
      rw [State.zone?, State.zone?, State.confirm_zones hx]
    exact hzones.trans (by rw [State.zone?_modRun, if_pos rfl, hx]; rfl)
  | normal => exact (s.zone?_modRun z z _).trans (by rw [if_pos rfl, hx]; rfl)

/-! ## Verdicts, lines, capture and proof of a decision -/

theorem State.enterSuspect_lines (s : State) (z : Nat) : (s.enterSuspect z).lines = s.lines := State.raiseTrigger_lines _ _ _ _

theorem State.enterSuspect_proof (s : State) (z : Nat) : (s.enterSuspect z).proof = s.proof := State.raiseTrigger_proof _ _ _ _

theorem State.enterSuspect_capture (hr : s.active.position? z = some r) :
    (s.enterSuspect z).slots = (s.raiseTrigger r.feeder .suspect (some z)).slots
      ∧ (s.enterSuspect z).missed = (s.raiseTrigger r.feeder .suspect (some z)).missed := by
  rw [State.enterSuspect, State.feederOf_of_position? hr]
  exact s.raiseTrigger_slots_modRun z _ r.feeder .suspect (some z)

/-- WOULD_TRIP writes the zone and the verdict queue alone. -/
theorem State.raiseWouldTrip_eq (s : State) (z : Nat) :
    s.raiseWouldTrip z = { s with zones := (s.raiseWouldTrip z).zones, verdicts := (s.raiseWouldTrip z).verdicts } := by
  unfold State.raiseWouldTrip
  split <;> rfl

theorem State.raiseWouldTrip_entry (hr : s.active.position? z = some r) (hx : s.zone? z = some x)
    (h : x.run.wouldTrip = false) : ∃ v ∈ (s.raiseWouldTrip z).verdicts, v.zone = z ∧ v.kind = .wouldTrip := by
  rw [State.raiseWouldTrip_of_unnoted hx h]
  have hz : (s.modRun z fun r => { r with wouldTrip := true }).zone? z
      = some { x with run := { x.run with wouldTrip := true } } := by
    rw [State.zone?_modRun, if_pos rfl, hx]
    rfl
  obtain ⟨v, hv, old, rfl⟩ := State.raised_entry (s := s.modRun z _) (r := r) .wouldTrip hr hz
  exact ⟨_, hv, rfl, rfl⟩

/-- The entry that a confirm leaves (R89). -/
theorem State.confirm_entry (hr : s.active.position? z = some r) (hx : s.zone? z = some x) :
    ∃ v ∈ (s.confirm z).verdicts, v.zone = z ∧ v.evidence = x.eval.evidence
      ∧ v.kind = confirmKind (s.profile z) x.run.trips := by
  have hz : (s.modRun z fun r => r.confirmed (s.profile z)).zone? z
      = some { x with run := x.run.confirmed (s.profile z) } := by
    rw [State.zone?_modRun, if_pos rfl, hx]
    rfl
  obtain ⟨v, hv, old, rfl⟩ := State.raised_entry (s := s.modRun z _) (r := r) (confirmKind (s.profile z) x.run.trips) hr hz
  have hverdicts : (s.confirm z).verdicts
      = ((s.modRun z fun r => r.confirmed (s.profile z)).raise z (confirmKind (s.profile z) x.run.trips)).verdicts := by
    rw [State.confirm_of_some hx, State.raiseTrigger_frame]
    exact State.abandonProof_verdicts _ z
  rw [hverdicts]
  exact ⟨_, hv, rfl, rfl, rfl⟩

/-- The lines follow after a confirm, whatever they were before (R114). -/
theorem State.confirm_linesFollow (hx : s.zone? z = some x) : (s.confirm z).LinesFollow := by
  rw [State.confirm_of_some hx]
  exact State.LinesFollow.raiseTrigger (State.recomputeLines_linesFollow _) _ _ _

/-- The capture unit is told of the trip (R142). -/
theorem State.confirm_capture (hr : s.active.position? z = some r) (hx : s.zone? z = some x) :
    (s.confirm z).slots = (s.raiseTrigger r.feeder .trip (some z)).slots
      ∧ (s.confirm z).missed = (s.raiseTrigger r.feeder .trip (some z)).missed := by
  rw [State.confirm_of_some hx, State.feederOf_of_position? hr, State.abandonProof_eq]
  refine State.raiseTrigger_congr ?_ ?_ ?_ ?_ ?_ r.feeder .trip (some z) <;> rfl

/-- The proof unit is told of the trip (R100); the recomputation of the lines moves the taken-over mark. -/
theorem State.confirm_proof (hx : s.zone? z = some x) :
    (s.confirm z).proof = { (s.abandonProof z).proof with takenOver := (s.confirm z).proof.takenOver } := by
  have hproof := State.abandonProof_proof_congr (z := z) (s := s)
    (t := (s.modRun z fun r => r.confirmed (s.profile z)).raise z (confirmKind (s.profile z) x.run.trips)) rfl
  rw [State.confirm_of_some hx, State.raiseTrigger_proof, State.recomputeLines_eq, hproof]

/-- An abandoned zone proof has no pulse, so the mark stands (R178). -/
theorem State.confirm_proof_of_pending (hx : s.zone? z = some x) (hs : s.proof.state = .zonePending) :
    (s.confirm z).proof = (s.abandonProof z).proof := by
  have hproof := State.abandonProof_proof_congr (z := z) (s := s)
    (t := (s.modRun z fun r => r.confirmed (s.profile z)).raise z (confirmKind (s.profile z) x.run.trips)) rfl
  have hnot : (s.abandonProof z).proof.state ≠ .pulseRunning := by
    unfold State.abandonProof
    split
    · exact nofun
    · rw [hs]; exact nofun
  rw [State.confirm_of_some hx, State.raiseTrigger_proof, State.recomputeLines_takenOver_of_no_pulse (hproof ▸ hnot), hproof]

/-- A zone in a state of a trip asserts every DIRECT line its record names (R112, R113). -/
theorem State.LinesFollow.asserted {l : Fin 4} (h : s.LinesFollow) (hr : s.active.position? z = some r)
    (hx : s.zone? z = some x) (ht : x.isTripped = true) (hl : r.namesLine l = true)
    (hdirect : s.active.header.policies.get l = .direct) : s.lines.get l = true := by
  have hdemand : s.demanded l = true := (s.demanded_iff l).mpr ⟨z, r, x, hr, hx, ht, hl⟩
  rw [h l, (s.policyCondition_iff l).mpr (.inl ⟨hdirect, hdemand⟩), Bool.true_or]

theorem ZoneRecord.confirmed_isTripped (x : Zone) (p : ZoneProfile) :
    Zone.isTripped { x with run := x.run.confirmed p } = true := by
  refine Zone.isTripped_iff.mpr ?_
  show confirmState p x.run.trips = _ ∨ confirmState p x.run.trips = _
  unfold confirmState
  split
  · exact .inr rfl
  · exact .inl rfl

/-! ## The decisions other than a confirm -/

theorem State.takeDecision_of_ne_confirm {d : Decision} (hd : d ≠ .confirm) :
    (s.takeDecision z d).lines = s.lines ∧ (s.takeDecision z d).proof = s.proof := by
  have hsuspect : (s.enterSuspect z).lines = s.lines ∧ (s.enterSuspect z).proof = s.proof :=
    ⟨s.enterSuspect_lines z, s.enterSuspect_proof z⟩
  cases d with
  | confirm => exact absurd rfl hd
  | stay | normal => exact ⟨rfl, rfl⟩
  | suspect => exact hsuspect
  | wouldTrip => rw [State.takeDecision, State.raiseWouldTrip_eq]; exact ⟨rfl, rfl⟩
  | suspectWouldTrip => rw [State.takeDecision, State.raiseWouldTrip_eq]; exact hsuspect

theorem State.takeDecision_verdicts {d : Decision} (hd : d = .stay ∨ d = .suspect ∨ d = .normal) :
    (s.takeDecision z d).verdicts = s.verdicts := by
  obtain rfl | rfl | rfl := hd
  · rfl
  · exact s.enterSuspect_verdicts z
  · rfl

/-- Every entry to SUSPECT, and no other decision but a confirm, asks the capture unit (R87, R142). -/
theorem State.takeDecision_capture {d : Decision} (hr : s.active.position? z = some r) :
    (d = .suspect ∨ d = .suspectWouldTrip → (s.takeDecision z d).slots = (s.raiseTrigger r.feeder .suspect (some z)).slots
      ∧ (s.takeDecision z d).missed = (s.raiseTrigger r.feeder .suspect (some z)).missed)
    ∧ (d = .stay ∨ d = .wouldTrip ∨ d = .normal →
      (s.takeDecision z d).slots = s.slots ∧ (s.takeDecision z d).missed = s.missed) := by
  refine ⟨fun hd => ?_, fun hd => ?_⟩
  · obtain rfl | rfl := hd
    · exact State.enterSuspect_capture hr
    · rw [State.takeDecision, State.raiseWouldTrip_eq]
      exact State.enterSuspect_capture hr
  · obtain rfl | rfl | rfl := hd
    · exact ⟨rfl, rfl⟩
    · rw [State.takeDecision, State.raiseWouldTrip_eq]
      exact ⟨rfl, rfl⟩
    · exact ⟨rfl, rfl⟩

theorem State.takeDecision_wouldTrip_entry {d : Decision} (hr : s.active.position? z = some r) (hx : s.zone? z = some x)
    (hd : d = .suspectWouldTrip ∨ d = .wouldTrip ∧ x.run.wouldTrip = false) :
    ∃ v ∈ (s.takeDecision z d).verdicts, v.zone = z ∧ v.kind = .wouldTrip := by
  obtain rfl | ⟨rfl, hnot⟩ := hd
  · have hz : (s.enterSuspect z).zone? z = some { x with run := x.run.toSuspect s.now (s.profile z) } :=
      State.zone?_takeDecision hx .suspect
    exact State.raiseWouldTrip_entry (r := r) ((s.enterSuspect_outside z).active ▸ hr) hz rfl
  · exact State.raiseWouldTrip_entry hr hx hnot

/-! ## An evaluation and its outcome -/

/-- The zone's evaluation record is replaced. -/
def State.judged (s : State) (z : Nat) (e : Evaluation) : State := s.modZone z fun y => { y with eval := e }

theorem State.zone?_judged (hx : s.zone? z = some x) (e : Evaluation) :
    (s.judged z e).zone? z = some { x with eval := e } := by
  rw [State.judged, State.zone?_modZone_same, hx]
  rfl

theorem State.evaluateZone_of_selected {u : Nat} {e : Evaluation} (hx : s.zone? z = some x) (hu : x.topo.source = some u)
    (hsel : x.selected = true) (he : e = x.eval.evaluate (s.profile z) x.run.state s.now (s.inputs x u)) :
    s.evaluateZone z = (s.judged z e).takeDecision z
      (decideOutcome (s.profile z) (s.feeders.get (s.feederOf z)).effective x.run.state e.evidence) := by
  subst he
  simp only [State.evaluateZone, hx, hu, hsel, if_true]
  rfl

theorem State.evaluateZone_of_not_selected (hx : s.zone? z = some x) (hsel : x.selected = false) : s.evaluateZone z = s := by
  simp only [State.evaluateZone, hx, hsel, Bool.false_eq_true, if_false]
  cases x.topo.source <;> rfl

section
variable {p : ZoneProfile} {mode : Mode} {was : ZoneState} {evidence : Nat}

theorem decideOutcome_of_confirm (hw : was = .normal ∨ was = .suspect) (h : p.tConfirm ≤ evidence) (hm : mode ≠ .inhibited) :
    decideOutcome p mode was evidence = .confirm := by
  obtain rfl | rfl := hw <;> simp [decideOutcome, h, hm]

theorem decideOutcome_of_inhibited (h : p.tConfirm ≤ evidence) :
    decideOutcome p .inhibited .normal evidence = .suspectWouldTrip
      ∧ decideOutcome p .inhibited .suspect evidence = .wouldTrip := by
  simp [decideOutcome, h]

theorem decideOutcome_of_below (h : evidence < p.tConfirm) :
    decideOutcome p mode .normal evidence = (if p.tSuspect ≤ evidence then .suspect else .stay)
      ∧ decideOutcome p mode .suspect evidence = (if evidence = 0 then .normal else .stay) := by
  simp [decideOutcome, Nat.not_le.mpr h]

/-- Without a confirm, a NORMAL zone stays or is suspected, and a SUSPECT one is not suspected anew. -/
theorem decideOutcome_of_no_confirm (h : evidence < p.tConfirm ∨ mode = .inhibited) :
    (p.tSuspect ≤ evidence ∨ p.tConfirm ≤ evidence →
      decideOutcome p mode .normal evidence = .suspect ∨ decideOutcome p mode .normal evidence = .suspectWouldTrip)
    ∧ (evidence < p.tSuspect → evidence < p.tConfirm → decideOutcome p mode .normal evidence = .stay)
    ∧ (decideOutcome p mode .suspect evidence = .stay ∨ decideOutcome p mode .suspect evidence = .wouldTrip
      ∨ decideOutcome p mode .suspect evidence = .normal) := by
  by_cases hle : p.tConfirm ≤ evidence
  · obtain rfl := h.resolve_left (Nat.not_lt.mpr hle)
    rw [(decideOutcome_of_inhibited hle).1, (decideOutcome_of_inhibited hle).2]
    exact ⟨fun _ => .inr rfl, fun _ hlt => absurd hle (Nat.not_le.mpr hlt), .inr (.inl rfl)⟩
  · have hlt := Nat.not_le.mp hle
    rw [(decideOutcome_of_below hlt).1, (decideOutcome_of_below hlt).2]
    refine ⟨fun hs => .inl (if_pos (hs.resolve_right hle)), fun hlow _ => if_neg (Nat.not_le.mpr hlow), ?_⟩
    split
    · exact .inr (.inr rfl)
    · exact .inl rfl

end

end

/-- Settles O31: the decision by state, evidence and mode, and what it writes. -/
theorem evidenceDecidesTheZone : Obligations.EvidenceDecidesTheZone := by
  intro s t z u x r p e mode trips hx hr hu hsel hp he hmode htrips ht
  subst hp
  obtain ⟨hwas, -⟩ := Zone.selected_iff.mp hsel
  have hz := State.zone?_judged hx e
  have hmode' : (s.feeders.get (s.feederOf z)).effective = mode := by rw [State.feederOf_of_position? hr, hmode]
  have htake := State.evaluateZone_of_selected hx hu hsel he
  rw [← ht, hmode'] at htake
  have hzone (d : Decision) : ((s.judged z e).takeDecision z d).zone? z
      = some (Zone.decided { x with eval := e } s.now (s.profile z) d) := State.zone?_takeDecision hz d
  have htrigger (kind : TriggerKind) := State.raiseTrigger_congr (s := s) (t := s.judged z e) rfl rfl rfl rfl rfl
    r.feeder kind (some z)
  refine ⟨fun hle hm => ?confirm, fun hle hm => ?inhibited, fun hlt => ?below, fun hnot => ?rest⟩
  case confirm =>
    rw [decideOutcome_of_confirm hwas hle hm] at htake
    have hconfirmed := hzone .confirm
    have hcapture := State.confirm_capture (s := s.judged z e) (r := r) hr hz
    have hfollow := State.confirm_linesFollow hz
    have ho := (s.judged z e).confirm_outside z
    have hother := State.confirm_proof hz
    have hpending := State.confirm_proof_of_pending hz
    obtain ⟨v, hv, hvz, hve, hvk⟩ := State.confirm_entry (s := s.judged z e) (r := r) hr hz
    rw [show (s.judged z e).takeDecision z .confirm = (s.judged z e).confirm z from rfl] at htake hconfirmed
    rw [← htake] at hconfirmed hcapture hfollow ho hother hpending hv
    subst htrips
    refine ⟨hconfirmed, ⟨v, hv, hvz, hve, hvk⟩, fun l hl hdirect => ?_, hcapture.1.trans (htrigger .trip).1,
      hcapture.2.trans (htrigger .trip).2, fun hn => ?_, fun g hs htarget hk hg => ?_⟩
    · exact hfollow.asserted (by rw [ho.active]; exact hr) hconfirmed (ZoneRecord.confirmed_isTripped _ _) hl
        (by rw [ho.active]; exact hdirect)
    · rw [hother, State.abandonProof_of_other (s := s.judged z e) hn]
      rfl
    · rw [hpending hs, State.abandonProof_of_pending (s := s.judged z e) hs htarget,
        State.completeProof_proof (s := s.judged z e) hk hg]
      rfl
  case inhibited =>
    subst hm
    have hentry (d : Decision) := State.takeDecision_wouldTrip_entry (d := d) (s := s.judged z e) (r := r) hr hz
    obtain hn | hs := hwas
    · rw [hn, (decideOutcome_of_inhibited hle).1] at htake
      rw [htake]
      exact ⟨(hzone _).trans (by rw [hn, if_pos rfl]; rfl), (State.takeDecision_of_ne_confirm (s := s.judged z e) (by simp)).1,
        fun h => (nomatch hn.symm.trans h), fun _ => hentry _ (.inl rfl)⟩
    · rw [hs, (decideOutcome_of_inhibited hle).2] at htake
      rw [htake]
      exact ⟨(hzone _).trans (by rw [hs]; rfl), (State.takeDecision_of_ne_confirm (s := s.judged z e) (by simp)).1,
        fun _ hnoted => (congrArg State.verdicts (State.raiseWouldTrip_of_noted (s := s.judged z e) hz hnoted)).trans rfl,
        fun h => hentry _ (.inr ⟨rfl, h.resolve_left (by rw [hs]; exact nofun)⟩)⟩
  case below =>
    have hquiet (d : Decision) (hd : d = .stay ∨ d = .suspect ∨ d = .normal) :
        ((s.judged z e).takeDecision z d).verdicts = s.verdicts ∧ ((s.judged z e).takeDecision z d).lines = s.lines :=
      ⟨State.takeDecision_verdicts hd, (State.takeDecision_of_ne_confirm (by rintro rfl; simp at hd)).1⟩
    obtain hn | hs := hwas
    · rw [hn, (decideOutcome_of_below hlt).1] at htake
      have hnot (h : x.run.state = .suspect) : False := nomatch hn.symm.trans h
      obtain ⟨hverdicts, hlines⟩ := hquiet (if (s.profile z).tSuspect ≤ e.evidence then .suspect else .stay)
        (by split <;> simp)
      rw [htake]
      refine ⟨hverdicts, hlines, fun _ hle => ?_, fun _ hlow => ?_, fun h => (hnot h).elim, fun h => (hnot h).elim⟩
      · rw [if_pos hle]
        exact hzone .suspect
      · rw [if_neg (Nat.not_le.mpr hlow)]
        exact hzone .stay
    · rw [hs, (decideOutcome_of_below hlt).2] at htake
      have hnot (h : x.run.state = .normal) : False := nomatch hs.symm.trans h
      obtain ⟨hverdicts, hlines⟩ := hquiet (if e.evidence = 0 then .normal else .stay) (by split <;> simp)
      rw [htake]
      refine ⟨hverdicts, hlines, fun h => (hnot h).elim, fun h => (hnot h).elim, fun _ hpos => ?_, fun _ hzero => ?_⟩
      · rw [if_neg (Nat.ne_of_gt hpos)]
        exact hzone .stay
      · rw [if_pos hzero]
        exact hzone .normal
  case rest =>
    obtain ⟨hrises, hstays, hsuspect⟩ := decideOutcome_of_no_confirm (p := s.profile z) hnot
    have hcapture (d : Decision) := State.takeDecision_capture (d := d) (s := s.judged z e) (z := z) (r := r) hr
    rw [htake]
    refine ⟨(State.takeDecision_of_ne_confirm (s := s.judged z e) ?_).2, fun hn hle => ?_, fun h => ?_⟩
    · obtain hn | hs := hwas
      · rw [hn]
        by_cases hle : (s.profile z).tSuspect ≤ e.evidence ∨ (s.profile z).tConfirm ≤ e.evidence
        · obtain hd | hd := hrises hle <;> simp [hd]
        · simp [hstays (by omega) (by omega)]
      · rw [hs]
        obtain hd | hd | hd := hsuspect <;> simp [hd]
    · rw [hn]
      obtain ⟨hslots, hmissed⟩ := (hcapture _).1 (hrises hle)
      exact ⟨hslots.trans (htrigger .suspect).1, hmissed.trans (htrigger .suspect).2⟩
    · refine (hcapture _).2 ?_
      obtain hn | hs := hwas
      · obtain ⟨hlow, hlow'⟩ := h.resolve_left (by rw [hn]; simp)
        rw [hn]
        exact .inl (hstays hlow hlow')
      · rw [hs]
        exact hsuspect

end Sys2Proof.Machine

/-!
The feeder expiry (R61, R62, R64, R78, R79, R84, R89): the mode latched, and the zones evaluated one after another.
-/

namespace Sys2Proof.Machine

/-! ## One zone of an evaluation -/

section
variable {s t : State} {z : Nat} {x : Zone}

/-- What an evaluation makes of a zone (R64, R79). -/
def State.evaluated (s : State) (z : Nat) (x : Zone) : Zone :=
  match x.topo.source with
  | none => x
  | some u =>
    if x.selected then
      let e := x.eval.evaluate (s.profile z) x.run.state s.now (s.inputs x u)
      Zone.decided { x with eval := e } s.now (s.profile z)
        (decideOutcome (s.profile z) (s.feeders.get (s.feederOf z)).effective x.run.state e.evidence)
    else x

theorem Zone.decided_topo (x : Zone) (now : Time) (p : ZoneProfile) (d : Decision) : (x.decided now p d).topo = x.topo := by
  cases d <;> rfl

theorem Zone.decided_eval (x : Zone) (now : Time) (p : ZoneProfile) (d : Decision) : (x.decided now p d).eval = x.eval := by
  cases d <;> rfl

theorem State.evaluated_of_source {u : Nat} {e : Evaluation} (hu : x.topo.source = some u) (hsel : x.selected = true)
    (he : e = x.eval.evaluate (s.profile z) x.run.state s.now (s.inputs x u)) :
    s.evaluated z x = Zone.decided { x with eval := e } s.now (s.profile z)
      (decideOutcome (s.profile z) (s.feeders.get (s.feederOf z)).effective x.run.state e.evidence) := by
  simp only [State.evaluated, hu, hsel, if_true, he]

theorem State.evaluated_of_not_selected (h : x.selected = false) : s.evaluated z x = x := by
  simp only [State.evaluated, h, Bool.false_eq_true, if_false]
  cases x.topo.source <;> rfl

theorem State.evaluated_topo (s : State) (z : Nat) (x : Zone) : (s.evaluated z x).topo = x.topo := by
  cases hu : x.topo.source with
  | none => simp only [State.evaluated, hu]
  | some u =>
    cases hsel : x.selected with
    | false => rw [State.evaluated_of_not_selected hsel]
    | true => rw [State.evaluated_of_source hu hsel rfl, Zone.decided_topo]

theorem State.zone?_evaluateZone (s : State) (z : Nat) : (s.evaluateZone z).zone? z = (s.zone? z).map (s.evaluated z) := by
  cases hx : s.zone? z with
  | none => simp only [State.evaluateZone, hx]; rfl
  | some x =>
    cases hu : x.topo.source with
    | none => simp only [State.evaluateZone, State.evaluated, hx, hu, Option.map_some]
    | some u =>
      cases hsel : x.selected with
      | false => rw [State.evaluateZone_of_not_selected hx hsel, hx, Option.map_some, State.evaluated_of_not_selected hsel]
      | true =>
        rw [State.evaluateZone_of_selected hx hu hsel rfl, State.zone?_takeDecision (State.zone?_judged hx _), Option.map_some,
          State.evaluated_of_source hu hsel rfl]
        rfl

theorem State.inputs_congr (h : s.OutsideZones t) (x : Zone) (u : Nat) : t.inputs x u = s.inputs x u := by
  have hnode (i : Nat) : t.node? i = s.node? i := by rw [State.node?, State.node?, h.nodes]
  have hunit (i : Nat) : t.unit i = s.unit i := by simp only [State.unit, h.active, hnode]
  simp only [State.inputs, hunit, State.motionHeld, h.active, hnode]

theorem State.feederOf_congr (h : s.OutsideZones t) (z : Nat) : t.feederOf z = s.feederOf z := by
  simp only [State.feederOf, h.active]

/-- An evaluation reads what is outside the zones, and its own zone. -/
theorem State.evaluated_congr (h : s.OutsideZones t) : t.evaluated z x = s.evaluated z x := by
  simp only [State.evaluated, State.profile_congr h, h.now, State.inputs_congr h, h.feeders, State.feederOf_congr h]

/-! ## Zones one after another -/

/-- Each zone is evaluated as it would be alone. -/
theorem State.zone?_foldl_evaluateZone {zs : List Nat} (h : zs.Nodup) (s : State) (y : Nat) :
    (zs.foldl State.evaluateZone s).zone? y = if y ∈ zs then (s.zone? y).map (s.evaluated y) else s.zone? y := by
  induction zs generalizing s with
  | nil => simp
  | cons z zs ih =>
    obtain ⟨hz, hzs⟩ := List.nodup_cons.mp h
    rw [List.foldl_cons, ih hzs]
    have hevaluated : (s.evaluateZone z).evaluated y = s.evaluated y :=
      funext fun x => State.evaluated_congr (s.evaluateZone_outside z)
    by_cases hy : y = z
    · subst hy
      rw [if_neg hz, if_pos List.mem_cons_self, State.zone?_evaluateZone]
    · rw [s.evaluateZone_keeps z y hy, hevaluated]
      simp [hy]

/-- An act on a zone leaves the entries of the others. -/
theorem ZoneAct.mem_verdicts (h : ZoneAct z s t) {v : VerdictEntry} (hv : v.zone ≠ z) : v ∈ t.verdicts ↔ v ∈ s.verdicts := by
  cases h with
  | modZone | recomputeLines => rfl
  | raise kind =>
    unfold State.raise
    cases s.zoneAt z with
    | none => rfl
    | some rx => exact mem_raiseInto_other hv
  | abandonProof => rw [State.abandonProof_verdicts]
  | raiseTrigger f kind => rw [State.raiseTrigger_frame]

theorem ZoneActs.mem_verdicts (h : ZoneActs z s t) {v : VerdictEntry} (hv : v.zone ≠ z) :
    v ∈ t.verdicts ↔ v ∈ s.verdicts := by
  induction h with
  | refl => rfl
  | tail _ hstep ih => exact (hstep.mem_verdicts hv).trans ih

theorem State.mem_verdicts_foldl_evaluateZone {zs : List Nat} {v : VerdictEntry} (hv : v.zone ∉ zs) (s : State) :
    v ∈ (zs.foldl State.evaluateZone s).verdicts ↔ v ∈ s.verdicts := by
  induction zs generalizing s with
  | nil => rfl
  | cons z zs ih =>
    exact (ih (fun h => hv (List.mem_cons_of_mem _ h)) _).trans
      ((s.evaluateZone_acts z).mem_verdicts fun h => hv (h ▸ List.mem_cons_self))

theorem State.LinesFollow.foldl_evaluateZone (h : s.LinesFollow) (zs : List Nat) :
    (zs.foldl State.evaluateZone s).LinesFollow := by
  induction zs generalizing s with
  | nil => exact h
  | cons z zs ih => exact ih (h.evaluateZone z)

/-- The zone's evaluation confirms (R85, R86). -/
structure State.Confirms (s : State) (z : Nat) (x : Zone) (e : Evaluation) : Prop where
  zone : s.zone? z = some x
  selected : x.selected = true
  source : ∃ u, x.topo.source = some u ∧ e = x.eval.evaluate (s.profile z) x.run.state s.now (s.inputs x u)
  reached : (s.profile z).tConfirm ≤ e.evidence
  mode : (s.feeders.get (s.feederOf z)).effective ≠ .inhibited

theorem State.Confirms.congr {e : Evaluation} (h : s.Confirms z x e) (ho : s.OutsideZones t) (hz : t.zone? z = s.zone? z) :
    t.Confirms z x e where
  zone := hz.trans h.zone
  selected := h.selected
  source := by
    obtain ⟨u, hu, he⟩ := h.source
    exact ⟨u, hu, by rw [State.profile_congr ho, ho.now, State.inputs_congr ho, he]⟩
  reached := by rw [State.profile_congr ho]; exact h.reached
  mode := by rw [State.feederOf_congr ho, ho.feeders]; exact h.mode

theorem State.Confirms.outcome {e : Evaluation} (h : s.Confirms z x e) :
    decideOutcome (s.profile z) (s.feeders.get (s.feederOf z)).effective x.run.state e.evidence = .confirm :=
  decideOutcome_of_confirm (Zone.selected_iff.mp h.selected).1 h.reached h.mode

theorem State.Confirms.evaluated {e : Evaluation} (h : s.Confirms z x e) :
    s.evaluated z x = { x with eval := e, run := x.run.confirmed (s.profile z) } := by
  obtain ⟨u, hu, he⟩ := h.source
  rw [State.evaluated_of_source hu h.selected he, h.outcome]
  rfl

theorem State.Confirms.evaluateZone {e : Evaluation} (h : s.Confirms z x e) :
    s.evaluateZone z = (s.judged z e).confirm z := by
  obtain ⟨u, hu, he⟩ := h.source
  rw [State.evaluateZone_of_selected h.zone hu h.selected he, h.outcome]
  rfl

/-- A zone that confirms among others leaves its entry, and the lines following (R89). -/
theorem State.Confirms.foldl_evaluateZone {e : Evaluation} {r : NodeRec} {zs : List Nat} (h : s.Confirms z x e)
    (hr : s.active.position? z = some r) (hz : z ∈ zs) (hnodup : zs.Nodup) : (zs.foldl State.evaluateZone s).LinesFollow
      ∧ ∃ v ∈ (zs.foldl State.evaluateZone s).verdicts, v.zone = z ∧ v.evidence = e.evidence
        ∧ v.kind = confirmKind (s.profile z) x.run.trips := by
  induction zs generalizing s with
  | nil => cases hz
  | cons y zs ih =>
    obtain ⟨hy, hzs⟩ := List.nodup_cons.mp hnodup
    have ho := s.evaluateZone_outside y
    rw [List.foldl_cons]
    by_cases hzy : z = y
    · subst hzy
      have hjudged := State.zone?_judged h.zone e
      obtain ⟨v, hv, hvz, hve, hvk⟩ := State.confirm_entry (s := s.judged z e) (r := r) hr hjudged
      rw [h.evaluateZone]
      exact ⟨(State.confirm_linesFollow hjudged).foldl_evaluateZone zs, v,
        (State.mem_verdicts_foldl_evaluateZone (hvz ▸ hy) _).mpr hv, hvz, hve, hvk⟩
    · have hlater := ih (h.congr ho (s.evaluateZone_keeps y z hzy)) (ho.active ▸ hr)
        ((List.mem_cons.mp hz).resolve_left hzy) hzs
      rw [State.profile_congr ho] at hlater
      exact hlater

/-- Acts on zones tell the proof unit at most the end of a zone proof. -/
theorem ZoneAct.proof_state (h : ZoneAct z s t) (hp : s.proof.state ≠ .zonePending) : t.proof.state = s.proof.state := by
  cases h with
  | modZone | raise | recomputeLines => rfl
  | abandonProof => rw [State.abandonProof_of_other (.inl hp)]
  | raiseTrigger f kind => rw [State.raiseTrigger_proof]

theorem ZoneActs.proof_state (h : ZoneActs z s t) (hp : s.proof.state ≠ .zonePending) : t.proof.state = s.proof.state := by
  induction h with
  | refl => rfl
  | tail _ hstep ih => exact (hstep.proof_state (by rw [ih]; exact hp)).trans ih

theorem State.evaluateFeeder_proof_state (hp : s.proof.state ≠ .zonePending) (f : Fin 4) :
    (s.evaluateFeeder f).proof.state = s.proof.state := by
  have hall (zs : List Nat) : ∀ t : State, t.proof.state = s.proof.state →
      (zs.foldl State.evaluateZone t).proof.state = s.proof.state := by
    induction zs with
    | nil => exact fun _ ht => ht
    | cons z zs ih => exact fun t ht => ih _ (((t.evaluateZone_acts z).proof_state (by rw [ht]; exact hp)).trans ht)
  exact hall _ s rfl

end

/-! ## The mode latched and the timer armed -/

section
variable {s : State} {f : Fin 4} {z : Nat} {r : NodeRec}

theorem State.profile_latchMode (hr : s.active.node? z = some r) (hf : r.feeder = f) :
    (s.latchMode f).profile z = s.active.zoneProfile (Machine.profileNumber (s.feeders.get f).requested r) := by
  rw [State.latchMode_eq]
  simp [State.profile, State.profileNumber, hr, hf]

theorem State.rearm_eq (t : State) (f : Fin 4) : t.rearm f = { t with feeders := (t.feeders.set f
    ⟨some (after t.now (t.active.header.periods.get f)), (t.feeders.get f).requested, (t.feeders.get f).effective⟩) } := rfl

theorem State.shadowEvaluation_eq (t : State) (f : Fin 4) : t.shadowEvaluation f
    = { t with proof := (t.shadowEvaluation f).proof, replies := (t.shadowEvaluation f).replies } := by
  unfold State.shadowEvaluation
  split
  · rfl
  · rename_i z x u _
    obtain h | ⟨-, -, h⟩ := (t.completeProof .done (shadowData (t.profile z) (t.feeders.get f).effective t.proof.forced x t.now
      (t.inputs x u))).flushHeld_cases <;> rw [h] <;> rfl

theorem State.shadowEvaluation_of_not_pending (h : s.proof.state ≠ .zonePending) : s.shadowEvaluation f = s := by
  have hnone : s.pendingProof f = none := if_neg h
  simp only [State.shadowEvaluation, hnone]

/-- The state that evaluates the zones: the mode latched, the shadow evaluation made, the timer armed. -/
theorem State.armed_eq (s : State) (f : Fin 4) : ((s.latchMode f).shadowEvaluation f).rearm f
    = { (s.latchMode f).shadowEvaluation f with feeders := (s.feeders.set f
        ⟨some (after s.now (s.active.header.periods.get f)), (s.feeders.get f).requested, (s.feeders.get f).requested⟩) } := by
  rw [State.rearm_eq, State.shadowEvaluation_eq, State.latchMode_eq]
  simp

theorem execFeederEvaluationExpiry_of_due (h : due s.now (s.feeders.get f).deadline = true) :
    exec (.feederEvaluationExpiry f) s = .next (s.feederExpiry f) := congrArg _ (if_pos h)

/-- With no zone proof pending, the state that evaluates the zones. -/
theorem State.armed_of_not_pending (hp : s.proof.state ≠ .zonePending) : ((s.latchMode f).shadowEvaluation f).rearm f
    = { s with
        feeders := (s.feeders.set f
          ⟨some (after s.now (s.active.header.periods.get f)), (s.feeders.get f).requested, (s.feeders.get f).requested⟩)
        zones := (s.latchMode f).zones } := by
  have hproof : (s.latchMode f).proof.state ≠ .zonePending := by rw [State.latchMode_eq]; exact hp
  rw [State.armed_eq, State.shadowEvaluation_of_not_pending hproof]
  conv => lhs; rw [State.latchMode_eq]

theorem State.zone?_latchMode_of (hr : s.active.node? z = some r) (hz : z ∈ s.active.zonesOf f) {limit : Nat}
    (hlimit : limit = (s.active.zoneProfile (Machine.profileNumber (s.feeders.get f).requested r)).lockoutLimit) :
    (s.latchMode f).zone? z
      = (s.zone? z).map fun x => { x with run := { x.run with trips := min x.run.trips limit } } := by
  obtain ⟨q, hq, hf⟩ := Tables.mem_zonesOf.mp hz
  obtain rfl := Option.some.inj (hr.symm.trans (Tables.node?_of_position? hq))
  rw [State.zone?_latchMode, if_pos hz, State.profile_latchMode hr hf, hlimit]
  rfl

end

end Sys2Proof.Machine

/-!
A feeder expiry as a whole (R61), and the shadow evaluation of a dry proof in it (R176).
-/

namespace Sys2Proof.Machine

section
variable {s : State} {f : Fin 4} {z : Nat} {r : NodeRec} {x : Zone}

/-- The state that evaluates the zones (R61, after step 3). -/
def State.armed (s : State) (f : Fin 4) : State := ((s.latchMode f).shadowEvaluation f).rearm f

theorem State.feederExpiry_eq (s : State) (f : Fin 4) :
    s.feederExpiry f = ((s.active.zonesOf f).foldl State.evaluateZone (s.armed f)).flushHeld := by
  have hactive : (s.armed f).active = s.active := by
    rw [State.armed, State.armed_eq, State.shadowEvaluation_eq, State.latchMode_eq]
  rw [← hactive]
  rfl

theorem State.zone?_armed (s : State) (f : Fin 4) (y : Nat) : (s.armed f).zone? y = (s.latchMode f).zone? y := by
  rw [State.armed, State.armed_eq, State.shadowEvaluation_eq]
  rfl

theorem State.zonesOf_nodup (s : State) (f : Fin 4) : (s.active.zonesOf f).Nodup :=
  (s.active.zonesOf_ascending f).imp Nat.ne_of_lt

theorem State.zone?_feederExpiry (s : State) (f : Fin 4) (y : Nat) : (s.feederExpiry f).zone? y
    = if y ∈ s.active.zonesOf f then ((s.latchMode f).zone? y).map ((s.armed f).evaluated y) else s.zone? y := by
  have hflush : (s.feederExpiry f).zone? y = ((s.active.zonesOf f).foldl State.evaluateZone (s.armed f)).zone? y := by
    rw [State.feederExpiry_eq, State.zone?, State.zone?, State.flushHeld_zones]
  rw [hflush, State.zone?_foldl_evaluateZone (s.zonesOf_nodup f), State.zone?_armed]
  split
  · rfl
  · rename_i hy
    rw [State.zone?_latchMode, if_neg hy]

/-- With no zone proof pending, the expiry is the evaluation of the armed state's zones. -/
theorem State.feederExpiry_of_not_pending (hp : s.proof.state ≠ .zonePending) (hflush : s.canFlush = false) :
    s.feederExpiry f = (s.active.zonesOf f).foldl State.evaluateZone (s.armed f) := by
  have hproof : (s.armed f).proof = s.proof ∧ (s.armed f).replies = s.replies ∧ (s.armed f).active = s.active := by
    rw [State.armed, State.armed_of_not_pending hp]
    exact ⟨rfl, rfl, rfl⟩
  have hstate := State.evaluateFeeder_proof_state (s := s.armed f) (by rw [hproof.1]; exact hp) f
  have hreplies := ((s.armed f).evaluateFeeder_outside f).replies
  rw [State.feederExpiry_eq, State.flushHeld_of_canFlush]
  rw [State.evaluateFeeder, hproof.2.2] at hstate hreplies
  rw [State.canFlush, hstate, hreplies, hproof.1, hproof.2.1]
  exact hflush

theorem State.armed_outside (hp : s.proof.state ≠ .zonePending) : State.OutsideZones
    { s with feeders := (s.feeders.set f
      ⟨some (after s.now (s.active.header.periods.get f)), (s.feeders.get f).requested, (s.feeders.get f).requested⟩) }
    (s.armed f) := by
  rw [State.armed, State.armed_of_not_pending hp]
  constructor <;> rfl

theorem State.armed_reads (hp : s.proof.state ≠ .zonePending) (hr : s.active.position? z = some r) (hf : r.feeder = f) :
    (s.armed f).profile z = s.active.zoneProfile (Machine.profileNumber (s.feeders.get f).requested r)
      ∧ ((s.armed f).feeders.get ((s.armed f).feederOf z)).effective = (s.feeders.get f).requested
      ∧ (s.armed f).active.position? z = some r := by
  have ho := State.armed_outside (f := f) hp
  have hnode := Tables.node?_of_position? hr
  have hfeeder : (s.armed f).feederOf z = f :=
    (State.feederOf_congr ho z).trans ((State.feederOf_of_position? (s := s) hr).trans hf)
  refine ⟨?_, ?_, ho.active ▸ hr⟩
  · rw [State.profile_congr ho]
    simp [State.profile, State.profileNumber, hnode, hf]
  · rw [hfeeder, ho.feeders]
    simp

theorem State.inputs_armed (hp : s.proof.state ≠ .zonePending) (x : Zone) (u : Nat) :
    (s.armed f).inputs x u = s.inputs x u := State.inputs_congr (State.armed_outside (f := f) hp) x u

theorem confirmTrips_of_capped {p : ZoneProfile} (n : Nat) :
    confirmTrips p (min n p.lockoutLimit) = min p.lockoutLimit (n + 1) := by
  unfold confirmTrips
  omega

end

/-- Settles O30: the latched trip counts, then the zones one after another, each as it would be evaluated alone. -/
theorem feederExpiryLatchesArmsAndEvaluates : Obligations.FeederExpiryLatchesArmsAndEvaluates := by
  intro s f mode limit hmode hlimit
  subst hmode
  refine ⟨fun hdue => ?_, fun hdue hp hflush => ?_, fun hdue => congrArg _ (if_neg (by simp [hdue]))⟩
  · refine ⟨s.latchMode f, s.armed f, s.feederExpiry f, s.latchMode_eq f, fun z hz => ?_, fun z r hz hr => ?_, s.armed_eq f,
      fun hp => ?_, s.feederExpiry_eq f, s.active.zonesOf_ascending f, execFeederEvaluationExpiry_of_due hdue, fun z hz => ?_⟩
    · rw [State.zone?_latchMode, if_neg hz]
    · exact State.zone?_latchMode_of hr hz (hlimit r)
    · exact State.shadowEvaluation_of_not_pending (by rw [State.latchMode_eq]; exact hp)
    · rw [State.zone?_feederExpiry, if_pos hz, State.zone?_evaluateZone, State.zone?_armed]
  · have ho := State.armed_outside (f := f) hp
    have hexpiry := State.feederExpiry_of_not_pending (f := f) hp hflush
    refine ⟨s.feederExpiry f, execFeederEvaluationExpiry_of_due hdue, ?_, fun z hz => ?_, fun z x r hz hx hr => ?_⟩
    · rw [hexpiry]
      exact ho.trans (State.OutsideZones.foldl State.evaluateZone_outside _ _)
    · rw [State.zone?_feederExpiry, if_neg hz]
    · obtain ⟨q, hq, hf⟩ := Tables.mem_zonesOf.mp hz
      obtain rfl := Option.some.inj (hr.symm.trans (Tables.node?_of_position? hq))
      have hlatched : (s.latchMode f).zone? z = some (x.capTrips (limit r)) := by
        rw [State.zone?_latchMode_of hr hz (hlimit r), hx]
        rfl
      have hy := s.zone?_feederExpiry f z
      rw [if_pos hz, hlatched, Option.map_some] at hy
      obtain ⟨hprofile', heffective, hposition⟩ := State.armed_reads hp hq hf
      have hnow : (s.armed f).now = s.now := ho.now
      refine ⟨_, hy, State.evaluated_topo _ z _, fun hsel => State.evaluated_of_not_selected hsel,
        fun u p trips hu hsel hprofile htrips => ?_⟩
      rw [← hprofile] at hprofile'
      have he : x.eval.evaluate p x.run.state s.now (s.inputs x u) = x.eval.evaluate ((s.armed f).profile z) x.run.state
          (s.armed f).now ((s.armed f).inputs (x.capTrips (limit r)) u) := by
        rw [hprofile', hnow, State.inputs_armed hp]
        rfl
      have heval : ((s.armed f).evaluated z (x.capTrips (limit r))).eval
          = x.eval.evaluate p x.run.state s.now (s.inputs x u) := by
        rw [State.evaluated_of_source (x := x.capTrips (limit r)) hu hsel he, Zone.decided_eval]
      refine ⟨heval, fun hreached hmode => ?_⟩
      rw [heval] at hreached
      have hconfirms : (s.armed f).Confirms z (x.capTrips (limit r))
          (x.eval.evaluate p x.run.state s.now (s.inputs x u)) :=
        { zone := (s.zone?_armed f z).trans hlatched
          selected := hsel
          source := ⟨u, hu, he⟩
          reached := by rw [hprofile']; exact hreached
          mode := by rw [heffective]; exact hmode }
      obtain ⟨hfollow, v, hv, hvz, hve, hvk⟩ := hconfirms.foldl_evaluateZone hposition hz (s.zonesOf_nodup f)
      have hcount : confirmTrips p (x.capTrips (limit r)).run.trips = trips := by
        rw [htrips, hlimit r, ← hprofile]
        exact confirmTrips_of_capped _
      rw [← hexpiry] at hfollow hv
      have hactive : (s.feederExpiry f).active = s.active := by
        rw [hexpiry]
        exact (ho.trans (State.OutsideZones.foldl State.evaluateZone_outside _ _)).active
      rw [hconfirms.evaluated] at hy ⊢
      refine ⟨?_, ⟨v, hv, hvz, hve, hvk.trans ?_⟩, fun l hl hdirect => ?_⟩
      · show ZoneRecord.confirmed _ _ = _
        rw [ZoneRecord.confirmed, confirmState, hprofile', hcount, hlimit r, ← hprofile]
      · rw [confirmKind, hprofile', hcount, hlimit r, ← hprofile]
      · exact hfollow.asserted (hactive ▸ hq) hy (ZoneRecord.confirmed_isTripped _ _) hl (hactive ▸ hdirect)

end Sys2Proof.Machine

/-!
The shadow evaluation of a dry proof (R61, R176, R179).
-/

namespace Sys2Proof.Machine

/-! ## The shadow score -/

section
variable {p : ZoneProfile} {forced : Indications} {e : Evaluation} {ph : Phase}

theorem scoreOf_union (w : Weights) (x y : Indications) : scoreOf w (x.union y)
    = (if x.open_ = true ∨ y.open_ = true then w.open_ else 0) + (if x.leak = true ∨ y.leak = true then w.leak else 0)
      + (if x.arc = true ∨ y.arc = true then w.arc else 0) + (if x.motion = true ∨ y.motion = true then w.motion else 0)
      + (if x.lost = true ∨ y.lost = true then w.lost else 0) := by
  simp [scoreOf, Indications.union]

/-- The phase that the forced indications join: the faulted one, phase A when that is none. -/
theorem faulted_getD (h : e.faulted = some ph ∨ e.faulted = none ∧ ph = .a) : e.faulted.getD .a = ph := by
  obtain h | ⟨h, rfl⟩ := h <;> rw [h] <;> rfl

/-- The shadow score is the largest score, the one that the forced indications give among them. -/
theorem shadowScore_eq {joined score : Nat} (hph : e.faulted.getD .a = ph)
    (hjoined : joined = scoreOf p.weights ((e.perPhase.get ph).indications.union forced)) (hle : joined ≤ score)
    (hothers : ∀ q, q ≠ ph → (e.perPhase.get q).score ≤ score)
    (hattained : score = joined ∨ ∃ q, q ≠ ph ∧ score = (e.perPhase.get q).score) : score = shadowScore p forced e := by
  have hshadow : shadowScore p forced e = zoneScore (e.perPhase.set ph { e.perPhase.get ph with score := joined }) := by
    rw [shadowScore, hph, hjoined]
  rw [hshadow]
  refine Nat.le_antisymm ?_ ?_
  · obtain rfl | ⟨q, hq, rfl⟩ := hattained
    · refine Nat.le_trans (Nat.le_of_eq ?_) (score_le_zoneScore _ ph)
      rw [PerPhase.get_set_same]
    · refine Nat.le_trans (Nat.le_of_eq ?_) (score_le_zoneScore _ q)
      rw [PerPhase.get_set_other _ _ hq]
  · obtain ⟨q, hq⟩ := exists_score_eq_zoneScore (e.perPhase.set ph { e.perPhase.get ph with score := joined })
    rw [← hq]
    by_cases hqph : q = ph
    · subst hqph
      rw [PerPhase.get_set_same]
      exact hle
    · rw [PerPhase.get_set_other _ _ hqph]
      exact hothers q hqph

/-- An empty forced mask changes no score. -/
theorem shadowScore_unforced (e : Evaluation) (p : ZoneProfile) (was : ZoneState) (now : Time) (ins : ZoneInputs) :
    shadowScore p ⟨false, false, false, false, false⟩ (e.evaluate p was now ins) = (e.evaluate p was now ins).score := by
  have hscore (q : Phase) : ((e.evaluate p was now ins).perPhase.get q).score
      = scoreOf p.weights ((e.evaluate p was now ins).perPhase.get q).indications := by
    rw [show (e.evaluate p was now ins).perPhase.get q = evalPhase p was ins q (e.perPhase.get q) from PerPhase.get_of _ q]
    rfl
  have hunion (x : Indications) : x.union ⟨false, false, false, false, false⟩ = x := by simp [Indications.union]
  refine (shadowScore_eq rfl rfl ?_ (fun q _ => score_le_zoneScore _ q) ?_).symm
  · rw [hunion, ← hscore]
    exact score_le_zoneScore _ _
  · obtain ⟨q, hq⟩ := exists_score_eq_zoneScore (e.evaluate p was now ins).perPhase
    rw [hunion, ← hscore]
    by_cases hph : q = (e.evaluate p was now ins).faulted.getD .a
    · exact .inl (hph ▸ hq.symm)
    · exact .inr ⟨q, hph, hq.symm⟩

end

/-! ## The shadow evaluation made -/

section
variable {s : State} {f : Fin 4} {z u : Nat} {x : Zone} {r : NodeRec} {g : Byte}

/-- The record of a zone proof that waits for its zone's evaluation (R175). -/
structure Proof.Pends (p : Proof) (z : Nat) (g : Byte) : Prop where
  state : p.state = .zonePending
  kind : p.kind = some .proveZone
  target : p.target = some z
  tag : p.tag = some g

theorem State.pendingProof_eq_some (h : s.proof.Pends z g) (hr : s.active.position? z = some r) (hf : r.feeder = f)
    (hx : s.zone? z = some x) (hu : x.topo.source = some u) : s.pendingProof f = some (z, x, u) := by
  simp [State.pendingProof, h.state, h.target, State.feederOf_of_position? hr, hf, hx, hu]

/-- The completion of a dry proof joins the reply queue, or is held where that is full (R176, R179). -/
theorem State.shadowEvaluation_of_pending (h : s.proof.Pends z g) (hr : s.active.position? z = some r) (hf : r.feeder = f)
    (hx : s.zone? z = some x) (hu : x.topo.source = some u) {data : List Byte}
    (hdata : data = shadowData (s.profile z) (s.feeders.get f).effective s.proof.forced x s.now (s.inputs x u)) :
    s.shadowEvaluation f = if s.replies.length < 4 then
        { s with proof := .idle, replies := s.replies ++ [⟨0x38, g, .done, data⟩] }
      else { s with proof := { s.proof with
        state := .completionWaiting, pulseDeadline := none, held := some ⟨0x38, g, .done, data⟩ } } := by
  have hcode : (if s.proof.kind = some .proveLine then codeProveLine else codeProveZone) = 0x38 := by rw [h.kind]; rfl
  simp only [State.shadowEvaluation, State.pendingProof_eq_some h hr hf hx hu, ← hdata]
  exact State.flushHeld_of_completed .done data s.lines s.replies h.tag hcode

end

/-! ## The result that the shadow evaluation reports -/

section
variable {p : ZoneProfile} {mode : Mode} {x : ZoneRecord} {evidence : Nat}

theorem shadowResult_of_confirm (h : p.tConfirm ≤ evidence) (hm : mode ≠ .inhibited)
    (hw : x.state = .normal ∨ x.state = .suspect) : shadowResult p x (decideOutcome p mode x.state evidence)
      = (confirmState p x.trips, some (confirmKind p x.trips)) := by
  rw [decideOutcome_of_confirm hw h hm]
  rfl

theorem confirmTrips_lt (h : x.trips + 1 < p.lockoutLimit) :
    confirmState p x.trips = .tripped ∧ confirmKind p x.trips = .trip := by
  have hcount : ¬p.lockoutLimit ≤ confirmTrips p x.trips := by unfold confirmTrips; omega
  exact ⟨if_neg hcount, if_neg hcount⟩

theorem confirmTrips_ge (h : p.lockoutLimit ≤ x.trips + 1) :
    confirmState p x.trips = .lockout ∧ confirmKind p x.trips = .lockout := by
  have hcount : p.lockoutLimit ≤ confirmTrips p x.trips := by unfold confirmTrips; omega
  exact ⟨if_pos hcount, if_pos hcount⟩

theorem shadowResult_of_inhibited (h : p.tConfirm ≤ evidence) (hw : x.state = .normal ∨ x.state = .suspect) :
    shadowResult p x (decideOutcome p .inhibited x.state evidence)
      = (.suspect, if x.state = .suspect ∧ x.wouldTrip = true then none else some .wouldTrip) := by
  obtain hn | hs := hw
  · rw [hn, (decideOutcome_of_inhibited h).1]
    simp [shadowResult]
  · rw [hs, (decideOutcome_of_inhibited h).2]
    simp [shadowResult]

theorem shadowResult_of_below (h : evidence < p.tConfirm) (hw : x.state = .normal ∨ x.state = .suspect) :
    (shadowResult p x (decideOutcome p mode x.state evidence)).2 = none
    ∧ (x.state = .normal → (shadowResult p x (decideOutcome p mode x.state evidence)).1
        = if p.tSuspect ≤ evidence then .suspect else .normal)
    ∧ (x.state = .suspect → (shadowResult p x (decideOutcome p mode x.state evidence)).1
        = if evidence = 0 then .normal else .suspect) := by
  obtain hn | hs := hw
  · rw [hn, (decideOutcome_of_below h).1]
    split <;> simp [shadowResult, hn]
  · rw [hs, (decideOutcome_of_below h).2]
    split <;> simp [shadowResult, hs]

end

end Sys2Proof.Machine

/-!
A pending dry proof touches nothing but replies and the proof record (R176): the evaluation of a feeder with and without one.
-/

namespace Sys2Proof.Machine

/-! ## Two machines that differ in the proof record and the reply queue -/

/-- The same machine but for the proof record and the reply queue, without a pulse in either. -/
structure State.Beside (s t : State) : Prop where
  eq : t = { s with proof := t.proof, replies := t.replies }
  left : s.proof.state ≠ .pulseRunning
  right : t.proof.state ≠ .pulseRunning

namespace State.Beside

variable {s t : State}

theorem cases (h : s.Beside t) : ∃ p q, t = { s with proof := p, replies := q } ∧ p.state ≠ .pulseRunning :=
  ⟨_, _, h.eq, h.right⟩

theorem modZone (h : s.Beside t) (z : Nat) (g : Zone → Zone) : (s.modZone z g).Beside (t.modZone z g) := by
  obtain ⟨p, q, rfl, hp⟩ := h.cases
  exact ⟨rfl, h.left, hp⟩

theorem modRun (h : s.Beside t) (z : Nat) (g : ZoneRecord → ZoneRecord) : (s.modRun z g).Beside (t.modRun z g) :=
  h.modZone z _

theorem raise (h : s.Beside t) (z : Nat) (kind : VerdictKind) : (s.raise z kind).Beside (t.raise z kind) := by
  obtain ⟨p, q, rfl, hp⟩ := h.cases
  exact ⟨rfl, h.left, hp⟩

theorem raiseTrigger (h : s.Beside t) (f : Fin 4) (kind : TriggerKind) (subject : Option Nat) :
    (s.raiseTrigger f kind subject).Beside (t.raiseTrigger f kind subject) := by
  obtain ⟨p, q, rfl, hp⟩ := h.cases
  obtain ⟨hslots, hmissed⟩ :=
    State.raiseTrigger_congr (s := s) (t := { s with proof := p, replies := q }) rfl rfl rfl rfl rfl f kind subject
  have ht := State.raiseTrigger_frame { s with proof := p, replies := q } f kind subject
  have hs := s.raiseTrigger_frame f kind subject
  rw [hslots, hmissed] at ht
  rw [ht]
  generalize s.raiseTrigger f kind subject = u at hs ⊢
  refine ⟨?_, by rw [hs]; exact h.left, hp⟩
  conv => rhs; rw [hs]

theorem abandonProof (h : s.Beside t) (z : Nat) : (s.abandonProof z).Beside (t.abandonProof z) := by
  have hstate {u : State} (hu : u.proof.state ≠ .pulseRunning) : (u.abandonProof z).proof.state ≠ .pulseRunning := by
    unfold State.abandonProof
    split
    · exact nofun
    · exact hu
  have hs := hstate h.left
  have ht := hstate h.right
  obtain ⟨p, q, rfl, -⟩ := h.cases
  rw [State.abandonProof_eq] at hs ht ⊢
  rw [State.abandonProof_eq (s := { s with proof := p, replies := q })] at ht ⊢
  exact ⟨rfl, hs, ht⟩

theorem recomputeLines (h : s.Beside t) : s.recomputeLines.Beside t.recomputeLines := by
  obtain ⟨p, q, rfl, hp⟩ := h.cases
  rw [State.recomputeLines_of_no_pulse h.left, State.recomputeLines_of_no_pulse (s := { s with proof := p, replies := q }) hp]
  exact ⟨rfl, h.left, hp⟩

theorem zone? (h : s.Beside t) (z : Nat) : t.zone? z = s.zone? z := by rw [h.eq]; rfl

theorem profile (h : s.Beside t) (z : Nat) : t.profile z = s.profile z := by rw [h.eq]; rfl

theorem now (h : s.Beside t) : t.now = s.now := by rw [h.eq]

theorem feederOf (h : s.Beside t) (z : Nat) : t.feederOf z = s.feederOf z := by rw [h.eq]; rfl

theorem enterSuspect (h : s.Beside t) (z : Nat) : (s.enterSuspect z).Beside (t.enterSuspect z) := by
  rw [State.enterSuspect, State.enterSuspect, h.profile, h.now, h.feederOf]
  exact (h.modRun z _).raiseTrigger _ _ _

theorem raiseWouldTrip (h : s.Beside t) (z : Nat) : (s.raiseWouldTrip z).Beside (t.raiseWouldTrip z) := by
  rw [State.raiseWouldTrip, State.raiseWouldTrip, h.zone?]
  split
  · exact (h.modRun z _).raise z _
  · exact h

theorem confirm (h : s.Beside t) (z : Nat) : (s.confirm z).Beside (t.confirm z) := by
  rw [State.confirm, State.confirm, h.zone?, h.profile, h.feederOf]
  cases s.zone? z with
  | none => exact h
  | some x => exact ((((h.modRun z _).raise z _).abandonProof z).recomputeLines).raiseTrigger _ _ _

theorem takeDecision (h : s.Beside t) (z : Nat) (d : Decision) : (s.takeDecision z d).Beside (t.takeDecision z d) := by
  cases d with
  | stay => exact h
  | suspect => exact h.enterSuspect z
  | suspectWouldTrip => exact (h.enterSuspect z).raiseWouldTrip z
  | wouldTrip => exact h.raiseWouldTrip z
  | confirm => exact h.confirm z
  | normal => exact h.modRun z _

theorem evaluateZone (h : s.Beside t) (z : Nat) : (s.evaluateZone z).Beside (t.evaluateZone z) := by
  have hinputs (x : Zone) (u : Nat) : t.inputs x u = s.inputs x u := by rw [h.eq]; rfl
  have hfeeders : t.feeders = s.feeders := by rw [h.eq]
  cases hx : s.zone? z with
  | none =>
    simp only [State.evaluateZone, h.zone?, hx]
    exact h
  | some x =>
    have hy := (h.zone? z).trans hx
    cases hsel : x.selected with
    | false =>
      rw [State.evaluateZone_of_not_selected hx hsel, State.evaluateZone_of_not_selected hy hsel]
      exact h
    | true =>
      cases hu : x.topo.source with
      | none =>
        simp only [State.evaluateZone, hx, hy, hu]
        exact h
      | some u =>
        rw [State.evaluateZone_of_selected hx hu hsel rfl, State.evaluateZone_of_selected hy hu hsel rfl, h.profile, h.now,
          hinputs, hfeeders, h.feederOf]
        exact (h.modZone z _).takeDecision z _

theorem foldl_evaluateZone (h : s.Beside t) (zs : List Nat) :
    (zs.foldl State.evaluateZone s).Beside (zs.foldl State.evaluateZone t) := by
  induction zs generalizing s t with
  | nil => exact h
  | cons z zs ih => exact ih (h.evaluateZone z)

theorem rearm (h : s.Beside t) (f : Fin 4) : (s.rearm f).Beside (t.rearm f) := by
  obtain ⟨p, q, rfl, hp⟩ := h.cases
  exact ⟨rfl, h.left, hp⟩

/-- What flushing leaves, on one side. -/
theorem flushed (h : s.Beside t) : s.Beside t.flushHeld := by
  obtain hf | ⟨-, -, hf⟩ := t.flushHeld_cases <;> rw [hf]
  · exact h
  · refine ⟨?_, h.left, nofun⟩
    conv => lhs; rw [h.eq]

theorem symm (h : s.Beside t) : t.Beside s := by
  refine ⟨?_, h.right, h.left⟩
  rw [h.eq]

theorem completed (h : s.proof.state ≠ .pulseRunning) (f : Fin 4) : s.Beside (s.shadowEvaluation f) := by
  have hrefl : s.Beside s := ⟨rfl, h, h⟩
  unfold State.shadowEvaluation
  split
  · exact hrefl
  · exact State.Beside.flushed ⟨rfl, h, nofun⟩

theorem trans {u : State} (h : s.Beside t) (k : t.Beside u) : s.Beside u := by
  refine ⟨?_, h.left, k.right⟩
  conv => lhs; rw [k.eq, h.eq]

end State.Beside

/-- A feeder expiry with a proof pending, and without one. -/
theorem State.feederExpiry_beside {s : State} {p : Proof} (hs : s.proof.state ≠ .pulseRunning) (hp : p.state ≠ .pulseRunning)
    (f : Fin 4) : (s.feederExpiry f).Beside (State.feederExpiry { s with proof := p } f) := by
  have hproof : (s.latchMode f).proof = s.proof := by rw [State.latchMode_eq]
  have hlatch : State.latchMode { s with proof := p } f = { s.latchMode f with proof := p } := by
    rw [State.latchMode, State.latchMode, State.foldl_modRun, State.foldl_modRun]
    rfl
  have hbeside : (s.latchMode f).Beside (State.latchMode { s with proof := p } f) := by
    rw [hlatch]
    exact ⟨rfl, hproof ▸ hs, hp⟩
  have hleft := State.Beside.completed hbeside.left f
  have hright := State.Beside.completed hbeside.right f
  have harmed := ((hleft.symm.trans hbeside).trans hright).rearm f
  have hexpiry := (harmed.foldl_evaluateZone (s.active.zonesOf f)).flushed.symm.flushed.symm
  rw [State.feederExpiry_eq, State.feederExpiry_eq]
  exact hexpiry

/-! ## The proof record through the evaluations -/

section
variable {s t : State} {z : Nat}

/-- Acts on a zone leave a proof record that holds neither a pending proof of it nor a pulse. -/
theorem ZoneActs.proof (h : ZoneActs z s t) (hp : s.proof.state ≠ .zonePending ∨ s.proof.target ≠ some z)
    (hpulse : s.proof.state ≠ .pulseRunning) : t.proof = s.proof := by
  induction h with
  | refl => rfl
  | tail _ hstep ih =>
    rw [← ih] at hp hpulse
    rw [← ih]
    cases hstep with
    | modZone | raise => rfl
    | abandonProof => rw [State.abandonProof_of_other hp]
    | recomputeLines => exact State.recomputeLines_takenOver_of_no_pulse hpulse
    | raiseTrigger f kind => rw [State.raiseTrigger_proof]

theorem State.foldl_evaluateZone_proof (hp : s.proof.state ≠ .zonePending) (hpulse : s.proof.state ≠ .pulseRunning)
    (zs : List Nat) : (zs.foldl State.evaluateZone s).proof = s.proof := by
  induction zs generalizing s with
  | nil => rfl
  | cons z zs ih =>
    have hz := (s.evaluateZone_acts z).proof (.inl hp) hpulse
    exact (ih (hz ▸ hp) (hz ▸ hpulse)).trans hz

end

section
variable {s : State} {f : Fin 4} {z u : Nat} {x : Zone} {r : NodeRec} {g : Byte}

theorem State.shadowEvaluation_of_pending_exists (h : s.proof.Pends z g) (hr : s.active.position? z = some r) (hf : r.feeder = f)
    (hx : s.zone? z = some x) (hu : x.topo.source = some u) : ∃ data, data.length = 4
      ∧ s.shadowEvaluation f = if s.replies.length < 4 then
        { s with proof := .idle, replies := s.replies ++ [⟨0x38, g, .done, data⟩] }
      else { s with proof := { s.proof with
        state := .completionWaiting, pulseDeadline := none, held := some ⟨0x38, g, .done, data⟩ } } :=
  ⟨shadowData (s.profile z) (s.feeders.get f).effective s.proof.forced x s.now (s.inputs x u), rfl,
    State.shadowEvaluation_of_pending h hr hf hx hu rfl⟩

/-- With a proof pending for a zone of the feeder, the expiry leaves the replies and the proof record of its shadow
evaluation (R61, R179). -/
theorem State.feederExpiry_of_pending (h : s.proof.Pends z g) (hr : s.active.position? z = some r) (hf : r.feeder = f)
    (hx : s.zone? z = some x) (hu : x.topo.source = some u) :
    (s.feederExpiry f).replies = ((s.latchMode f).shadowEvaluation f).replies
    ∧ (s.feederExpiry f).proof = ((s.latchMode f).shadowEvaluation f).proof
    ∧ ∃ data, data.length = 4
      ∧ (s.replies.length < 4 → ((s.latchMode f).shadowEvaluation f).proof = .idle
        ∧ ((s.latchMode f).shadowEvaluation f).replies = s.replies ++ [⟨0x38, g, .done, data⟩])
      ∧ (4 ≤ s.replies.length → ((s.latchMode f).shadowEvaluation f).replies = s.replies
        ∧ ((s.latchMode f).shadowEvaluation f).proof = { s.proof with
            state := .completionWaiting, pulseDeadline := none, held := some ⟨0x38, g, .done, data⟩ }) := by
  have hlatch := s.latchMode_eq f
  have hproof : (s.latchMode f).proof = s.proof := by rw [hlatch]
  have hreplies : (s.latchMode f).replies = s.replies := by rw [hlatch]
  have hposition : (s.latchMode f).active.position? z = some r := by rw [hlatch]; exact hr
  have hz : z ∈ s.active.zonesOf f := Tables.mem_zonesOf.mpr ⟨r, hr, hf⟩
  have hzone := State.zone?_latchMode_of (Tables.node?_of_position? hr) hz rfl
  rw [hx, Option.map_some] at hzone
  obtain ⟨data, hlength, hshadow⟩ := State.shadowEvaluation_of_pending_exists (s := s.latchMode f)
    ⟨hproof ▸ h.state, hproof ▸ h.kind, hproof ▸ h.target, hproof ▸ h.tag⟩ hposition hf hzone hu
  rw [hproof] at hshadow
  have harmed : (s.armed f).proof = ((s.latchMode f).shadowEvaluation f).proof
      ∧ (s.armed f).replies = ((s.latchMode f).shadowEvaluation f).replies := by
    rw [State.armed, State.armed_eq]
    exact ⟨rfl, rfl⟩
  have hwaits : ((s.latchMode f).shadowEvaluation f).canFlush = false
      ∧ ((s.latchMode f).shadowEvaluation f).proof.state ≠ .zonePending
      ∧ ((s.latchMode f).shadowEvaluation f).proof.state ≠ .pulseRunning := by
    rw [hshadow]
    split
    · exact ⟨decide_eq_false fun hn => (nomatch hn.1), nofun, nofun⟩
    · refine ⟨decide_eq_false fun hn => ?_, nofun, nofun⟩
      exact absurd hn.2 ‹_›
  have hfold := State.foldl_evaluateZone_proof (s := s.armed f) (by rw [harmed.1]; exact hwaits.2.1)
    (by rw [harmed.1]; exact hwaits.2.2) (s.active.zonesOf f)
  have houtside := State.OutsideZones.foldl State.evaluateZone_outside (s.armed f) (s.active.zonesOf f)
  have hflush : s.feederExpiry f = (s.active.zonesOf f).foldl State.evaluateZone (s.armed f) := by
    rw [State.feederExpiry_eq, State.flushHeld_of_canFlush]
    rw [State.canFlush, hfold, houtside.replies, harmed.1, harmed.2]
    exact hwaits.1
  rw [hflush, hfold, houtside.replies]
  refine ⟨harmed.2, harmed.1, data, hlength, fun hroom => ?_, fun hfull => ?_⟩
  · rw [hshadow, if_pos (hreplies ▸ hroom), hreplies]
    exact ⟨rfl, rfl⟩
  · rw [hshadow, if_neg (Nat.not_lt.mpr (hreplies ▸ hfull))]
    exact ⟨hreplies, rfl⟩

end

/-- Settles O52: the shadow score and result, and the feeder expiry beside one without the proof. -/
theorem shadowEvaluationOnlyReports : Obligations.ShadowEvaluationOnlyReports := by
  refine ⟨fun s f z u score evidence forced x r p g e ph found hs hk htarget hg hr hf hx hu hp hwas he hph hfound hforced hle
    hothers hattained hevidence => ?_, fun e p was now ins => shadowScore_unforced e p was now ins, fun s f hs => ?_,
    fun s f mode z u x r g hs hk htarget hg hr hf hx hu hmode hdue => ?_⟩
  · have hscore : score = shadowScore p s.proof.forced e :=
      shadowScore_eq (faulted_getD hph) (by rw [hforced, hfound, scoreOf_union]) hle hothers hattained
    have hmode : (s.feeders.get (s.feederOf z)).effective = (s.feeders.get f).effective := by
      rw [State.feederOf_of_position? hr, hf]
    have hstep : evidence = evidenceStep p x.eval.evidence score := hevidence
    obtain ⟨result, hresult⟩ : ∃ result, result
        = shadowResult p x.run (decideOutcome p (s.feeders.get f).effective x.run.state evidence) := ⟨_, rfl⟩
    have hdata : [byteOf score, byteOf evidence, result.1.code, (result.2.map VerdictKind.code).getD 0]
        = shadowData (s.profile z) (s.feeders.get f).effective s.proof.forced x s.now (s.inputs x u) := by
      rw [shadowData, ← hp, ← he, ← hscore, ← hstep, ← hresult]
    have hshadow := State.shadowEvaluation_of_pending ⟨hs, hk, htarget, hg⟩ hr hf hx hu hdata
    refine ⟨hscore, result.1.code, (result.2.map VerdictKind.code).getD 0, _, rfl, fun hroom => ?_, fun hfull => ?_,
      fun hreached hm hcount => ?_, fun hreached hm hcount => ?_, fun hreached hm => ?_, fun hbelow => ?_⟩
    · rw [hshadow, if_pos hroom]
    · rw [hshadow, if_neg (Nat.not_lt.mpr hfull)]
    · obtain ⟨hstate, hkind⟩ := confirmTrips_lt hcount
      rw [hresult, shadowResult_of_confirm hreached hm hwas, hstate, hkind]
      exact ⟨rfl, rfl⟩
    · obtain ⟨hstate, hkind⟩ := confirmTrips_ge hcount
      rw [hresult, shadowResult_of_confirm hreached hm hwas, hstate, hkind]
      exact ⟨rfl, rfl⟩
    · rw [hresult, hm, shadowResult_of_inhibited hreached hwas]
      refine ⟨rfl, ?_⟩
      split <;> rfl
    · obtain ⟨hkind, hnormal, hsuspect⟩ := shadowResult_of_below (mode := (s.feeders.get f).effective) hbelow hwas
      rw [← hresult] at hkind hnormal hsuspect
      refine ⟨by rw [hkind]; rfl, fun hn => ?_, fun hn => ?_⟩
      · rw [hnormal hn]
        split <;> rfl
      · rw [hsuspect hn]
        split <;> rfl
  · cases hdue : due s.now (s.feeders.get f).deadline with
    | false =>
      exact ⟨s, { s with proof := .idle }, congrArg _ (if_neg (by simp [hdue])), congrArg _ (if_neg (by simp [hdue])),
        rfl, rfl, rfl, rfl, rfl, rfl⟩
    | true =>
      have hbeside := State.feederExpiry_beside (s := s) (p := .idle) (by rw [hs]; exact nofun) nofun f
      have hidle : exec (.feederEvaluationExpiry f) { s with proof := .idle } = .next _ :=
        execFeederEvaluationExpiry_of_due (s := { s with proof := .idle }) hdue
      have heq := hbeside.eq
      generalize State.feederExpiry { s with proof := .idle } f = u at hidle heq
      have hpending := execFeederEvaluationExpiry_of_due hdue
      generalize s.feederExpiry f = t at hpending heq
      refine ⟨t, u, hpending, hidle, ?_⟩
      rw [heq]
      exact ⟨rfl, rfl, rfl, rfl, rfl, rfl⟩
  · subst hmode
    obtain ⟨hreplies, hproof, data, hlength, hroom, hfull⟩ :=
      State.feederExpiry_of_pending ⟨hs, hk, htarget, hg⟩ hr hf hx hu
    have hz : z ∈ s.active.zonesOf f := Tables.mem_zonesOf.mpr ⟨r, hr, hf⟩
    have hzone := State.zone?_latchMode_of (Tables.node?_of_position? hr) hz rfl
    rw [hx, Option.map_some] at hzone
    rw [← hreplies, ← hproof] at hroom hfull
    exact ⟨_, s.latchMode f, execFeederEvaluationExpiry_of_due hdue, s.latchMode_eq f, hzone, hreplies, hproof, data, hlength,
      hroom, hfull⟩

end Sys2Proof.Machine

/-!
Every command is answered once, or discarded (R165, R167, R168, R179).
-/

namespace Sys2Proof.Machine

/-! ## The completion that a command leaves waiting -/

/-- A completion that waits is an abandonment or a cancellation (R177). -/
def State.WaitsEnded (s : State) : Prop :=
  s.proof.state = .completionWaiting → ∀ r ∈ s.proof.held, r.status = .abandoned ∨ r.status = .cancelled

section
variable {s t : State} {c : Instr} {z : Nat}

theorem State.WaitsEnded.of_proof (h : s.WaitsEnded) (hp : t.proof = s.proof) : t.WaitsEnded := by
  rw [State.WaitsEnded, hp]
  exact h

theorem State.waitsEnded_completeProof {status : Status} (hstatus : status = .abandoned ∨ status = .cancelled)
    (data : List Byte) : (s.completeProof status data).WaitsEnded := by
  intro _ r hr
  obtain rfl := Option.some.inj hr
  exact hstatus

theorem State.WaitsEnded.abandonProof (h : s.WaitsEnded) (z : Nat) : (s.abandonProof z).WaitsEnded := by
  unfold State.abandonProof
  split
  · exact State.waitsEnded_completeProof (.inl rfl) []
  · exact h

theorem State.WaitsEnded.recomputeLines (h : s.WaitsEnded) : s.recomputeLines.WaitsEnded := h

theorem State.WaitsEnded.act (h : s.WaitsEnded) (hact : ZoneAct z s t) : t.WaitsEnded := by
  cases hact with
  | modZone | raise | recomputeLines => exact h
  | abandonProof => exact h.abandonProof z
  | raiseTrigger f kind => exact h.of_proof (State.raiseTrigger_proof _ _ _ _)

theorem State.WaitsEnded.zoneKept : ZoneKept State.WaitsEnded := ⟨.act, fun _ h => h⟩

theorem State.WaitsEnded.reconcileProof (h : s.WaitsEnded) (old : Tables) : (s.reconcileProof old).WaitsEnded := by
  unfold State.reconcileProof
  split
  · rename_i hs
    split
    · exact fun hwaits => nomatch hs.symm.trans hwaits
    · exact State.waitsEnded_completeProof (.inl rfl) []
  · exact h

theorem State.WaitsEnded.activate (h : s.WaitsEnded) : s.activate.WaitsEnded := by
  have hexchanged : s.exchanged.WaitsEnded :=
    State.WaitsEnded.reconcileProof (s := s.swapTables) h s.active
  rw [State.activate_eq]
  exact (State.WaitsEnded.zoneKept.recomputeAll hexchanged).recomputeLines

/-- Whatever a command does, a completion that it makes and leaves waiting is an abandonment or a cancellation. -/
theorem Effect.waitsEnded (h : Effect s c t) (hs : s.WaitsEnded) : t.WaitsEnded := by
  cases h with
  | small h => exact hs.of_proof h.proof.1
  | changeNode h => exact State.WaitsEnded.zoneKept.changeNode (hs.of_proof h.proof.1)
  | blindTrip => exact hs
  | presence h => exact (hs.of_proof h.proof.1).recomputeLines
  | @release _ _ i _ _ trips memory _ _ hx =>
    have hreleased : (s.released i.toNat trips memory).WaitsEnded := hs
    rw [State.release_eq_handOff hx]
    exact State.WaitsEnded.zoneKept.acts hreleased (State.handOff_acts _ _ _)
  | free => exact hs
  | proveZone | proveLine => exact nofun
  | cancelZone => exact State.waitsEnded_completeProof (.inr rfl) []
  | cancelPulse => exact (State.waitsEnded_completeProof (.inr rfl) []).recomputeLines
  | activate => exact hs.activate

/-! ## The reply queue after a command -/

/-- The REPLY joins the tail, and at most one completion follows it (R165, R179). -/
theorem State.takeCommand_replies {code tag : Byte} {body : State → Answer} (htake : s.CanTake)
    (hbody : Answers s c (body s)) : ∃ more, (s.takeCommand code tag body).replies
        = s.replies ++ ⟨code, tag, (body s).status, (body s).data⟩ :: more
      ∧ more.length ≤ 1 ∧ ∀ r ∈ more, r.status = .abandoned ∨ r.status = .cancelled := by
  have hwaits := hbody.effect.waitsEnded fun h => absurd h htake.2
  rw [State.takeCommand_of_room htake.1, hbody.more, hbody.effect.replies]
  obtain h | ⟨hstate, -, h⟩ := State.flushHeld_cases { (body s).state with
    replies := s.replies ++ [⟨code, tag, (body s).status, (body s).data⟩] } <;> rw [h]
  · exact ⟨[], rfl, Nat.zero_le 1, nofun⟩
  · refine ⟨(body s).state.proof.held.toList, by simp, ?_, fun r hr => hwaits hstate r (by simpa using hr)⟩
    cases (body s).state.proof.held <;> simp

theorem commandOf_restartEngine (tag : Byte) (params : List Byte) :
    commandOf codeRestartEngine tag params = .restartEngine tag params := rfl

/-- RESTART ENGINE answers at the tail, or alone with its notice in a fresh queue (R168, R173). -/
theorem execRestartEngine_replies {tag : Byte} {params : List Byte} (htake : s.CanTake) :
    ∃ t status data, execRestartEngine tag params s = .next t
      ∧ (t.replies = s.replies ++ [⟨0x3F, tag, status, data⟩]
        ∨ t.replies = [⟨0x3F, tag, status, data⟩, ⟨0x00, 0, .done, [2]⟩]) := by
  have hrefuse (status : Status) {body : State → Answer} (hb : body s = refuse s status) :
      (s.takeCommand codeRestartEngine tag body).replies = s.replies ++ [⟨0x3F, tag, status, []⟩] := by
    rw [State.takeCommand_of_refusal htake hb]
    rfl
  cases hforce : forceParam params with
  | none => exact ⟨_, .badParam, [], rfl, .inl (hrefuse _ (by simp only [hforce]))⟩
  | some force =>
    by_cases htripped : (!force && s.anyTripped) = true
    · exact ⟨_, .refusedTripped, [], rfl, .inl (hrefuse _ (by simp only [hforce, htripped, if_true]))⟩
    · refine ⟨_, .done, [], rfl, .inr ?_⟩
      rw [State.takeCommand_of_room htake.1]
      simp only [hforce, htripped, Bool.false_eq_true, if_false]
      rw [State.flushHeld_of_not_waiting (by simp [State.restart_proof, Proof.idle])]
      have hreplies : s.restart.replies = [] := s.restart_outside.replies
      rw [hreplies]
      rfl

end

/-- Settles O40: each command is taken by the reply discipline, with an effect that leaves the replies alone. -/
theorem everyCommandIsAnsweredOnceOrDiscarded : Obligations.EveryCommandIsAnsweredOnceOrDiscarded := by
  intro s code tag params
  by_cases hcode : code = codeRestartEngine
  · subst hcode
    rw [commandOf_restartEngine]
    refine ⟨fun hfull => congrArg Host.Outcome.next (State.takeCommand_of_full hfull ..), fun htake => ?_⟩
    obtain ⟨t, status, data, ht, hreplies⟩ := execRestartEngine_replies (tag := tag) (params := params) htake
    exact ⟨t, status, data, ht, fun hne => absurd rfl hne, fun _ => hreplies⟩
  · obtain ⟨body, hexec, hbody⟩ := commandOf_answered (s := s) hcode tag params
    rw [hexec]
    refine ⟨fun hfull => congrArg Host.Outcome.next (State.takeCommand_of_full hfull ..), fun htake => ?_⟩
    exact ⟨_, (body s).status, (body s).data, rfl, fun _ => State.takeCommand_replies htake hbody,
      fun heq => absurd heq hcode⟩

end Sys2Proof.Machine

/-!
A pending zone proof stands with its zone, and ends ABANDONED when the zone leaves NORMAL and SUSPECT (R100, R177, R179).
-/

namespace Sys2Proof.Machine

/-! ## A proof and its zone within an event -/

/-- The zone stands in a state that a zone proof may wait in (R175). -/
def Zone.Waits (x : Zone) : Prop := x.run.state = .normal ∨ x.run.state = .suspect

/-- The record of a zone proof that is abandoned, before its completion is queued (R177, R179). -/
def Proof.abandoned (p : Proof) (g : Byte) : Proof :=
  { p with state := .completionWaiting, pulseDeadline := none, held := some ⟨0x38, g, .abandoned, []⟩ }

/-- The proof `p` is in flight, and its zone, if it exists, is one that a proof waits in. -/
def State.Awaits (u : State) (p : Proof) (z : Nat) : Prop := u.proof = p ∧ ∀ y, u.zone? z = some y → y.Waits

/-- The proof `p` has been abandoned, and its zone, if it exists, is one that no proof waits in. -/
def State.Gave (u : State) (p : Proof) (z : Nat) (g : Byte) : Prop :=
  u.proof = p.abandoned g ∧ ∀ y, u.zone? z = some y → ¬y.Waits

/-- One of the two. -/
def State.Follows (u : State) (p : Proof) (z : Nat) (g : Byte) : Prop := u.Awaits p z ∨ u.Gave p z g

section
variable {s t u : State} {p : Proof} {z w : Nat} {g : Byte} {f : Fin 4} {x : Zone} {new : Evaluability}

theorem State.Awaits.of_same (h : s.Awaits p z) (hp : t.proof = s.proof)
    (hz : (t.zone? z).map (·.run.state) = (s.zone? z).map (·.run.state)) : t.Awaits p z := by
  refine ⟨hp.trans h.1, fun y hy => ?_⟩
  rw [hy, Option.map_some] at hz
  obtain ⟨x, hx, hstate⟩ := Option.map_eq_some_iff.mp hz.symm
  rw [Zone.Waits, ← hstate]
  exact h.2 x hx

theorem State.Follows.of_same (h : s.Follows p z g) (hp : t.proof = s.proof) (hz : t.zone? z = s.zone? z) :
    t.Follows p z g := by
  obtain h | h := h
  · exact .inl (h.of_same hp (by rw [hz]))
  · exact .inr ⟨hp.trans h.1, fun y hy => h.2 y (hz ▸ hy)⟩

/-- Acts on another zone leave the proof and its zone. -/
theorem State.Awaits.acts (h : s.Awaits p z) (hp : p.Pends z g) (hacts : ZoneActs w s t) (hw : z ≠ w)
    (hkeeps : s.KeepsOthers t w) : t.Awaits p z := by
  refine h.of_same (hacts.proof (.inr ?_) ?_) (by rw [hkeeps z hw])
  · rw [h.1, hp.target]
    exact fun heq => hw (Option.some.inj heq)
  · rw [h.1, hp.state]
    exact nofun

theorem State.Gave.acts (h : s.Gave p z g) (hacts : ZoneActs w s t) (hw : z ≠ w) (hkeeps : s.KeepsOthers t w) :
    t.Gave p z g := by
  have hproof := hacts.proof (.inl (by rw [h.1]; exact nofun)) (by rw [h.1]; exact nofun)
  exact ⟨hproof.trans h.1, fun y hy => h.2 y ((hkeeps z hw) ▸ hy)⟩

theorem State.Follows.handOff_other (h : s.Follows p z g) (hp : p.Pends z g) (hw : z ≠ w) (new : Evaluability) :
    (s.handOff w new).Follows p z g := by
  obtain h | h := h
  · exact .inl (h.acts hp (s.handOff_acts w new) hw (s.handOff_keeps w new))
  · exact .inr (h.acts (s.handOff_acts w new) hw (s.handOff_keeps w new))

/-! ## Hand-offs of the zone itself -/

theorem State.abandonProof_of_pends (h : s.proof = p) (hp : p.Pends z g) : (s.abandonProof z).proof = p.abandoned g := by
  subst h
  rw [State.abandonProof_of_pending hp.state hp.target, State.completeProof_proof hp.kind hp.tag]
  rfl

theorem Zone.handedOff_waits {now : Time} {q : ZoneProfile} (h : x.Waits) :
    (new = .evaluable → x.handedOff now q new = x) ∧ (new ≠ .evaluable → ¬(x.handedOff now q new).Waits) := by
  refine ⟨?_, fun hne hwaits => ?_⟩
  · rintro rfl
    obtain h | h := h <;> simp [Zone.handedOff, Zone.isTripped, degradeReason, h]
  · have hplaced : (x.handedOff now q new).run.state = .absorbed ∨ (x.handedOff now q new).run.state = .degraded := by
      cases new with
      | evaluable => exact absurd rfl hne
      | absorbed => obtain h | h := h <;> simp [Zone.handedOff, Zone.isTripped, degradeReason, ZoneRecord.toAbsorbed, h]
      | headLost | boundaryOverflow =>
        obtain h | h := h <;> simp [Zone.handedOff, Zone.isTripped, degradeReason, ZoneRecord.toDegraded, h]
    obtain hs | hs := hplaced <;> rw [Zone.Waits, hs] at hwaits <;> simp at hwaits

/-- The hand-off of the proof's zone: the proof stands with the zone, or is abandoned. -/
theorem State.Awaits.handOff (h : s.Awaits p z) (hp : p.Pends z g) (new : Evaluability) : (s.handOff z new).Follows p z g := by
  cases hx : s.zone? z with
  | none =>
    have hsame : s.handOff z new = s := by simp only [State.handOff, hx]
    exact .inl (hsame.symm ▸ h)
  | some x =>
    have hwaits := h.2 x hx
    have hoff := State.handOff_handsOff hx new
    have hzone := hoff.zone hx
    obtain ⟨hstays, hleaves⟩ := Zone.handedOff_waits (x := x) (new := new) (now := s.now) (q := s.profile z) hwaits
    by_cases hnew : new = .evaluable
    · rw [hstays hnew] at hzone
      have hproof : (s.handOff z new).proof = s.proof := hoff.proof.resolve_right fun ⟨_, _, hne⟩ => hne hnew
      exact .inl (h.of_same hproof (by rw [hzone, hx]))
    · have hproof : (s.handOff z new).proof = p.abandoned g := by
        rw [← State.abandonProof_of_pends h.1 hp]
        cases hreason : degradeReason new with
        | some reason =>
          rw [State.handOff_degrades hx hreason (hwaits.imp_right .inl)]
          exact s.enterDegraded_proof z reason
        | none =>
          have habsorbed : new = .absorbed := by cases new <;> simp_all [degradeReason]
          rw [habsorbed, State.handOff_absorbs hx (hwaits.imp_right .inl)]
          exact s.enterAbsorbed_proof z
      refine .inr ⟨hproof, fun y hy => ?_⟩
      rw [hzone] at hy
      exact Option.some.inj hy ▸ hleaves hnew

/-! ## Recomputations -/

theorem State.foldl_handOff_proof {offs : List (Nat × Evaluability)}
    (hp : s.proof.state ≠ .zonePending ∨ ∀ off ∈ offs, s.proof.target ≠ some off.1) (hpulse : s.proof.state ≠ .pulseRunning) :
    (offs.foldl (fun t off => t.handOff off.1 off.2) s).proof = s.proof := by
  induction offs generalizing s with
  | nil => rfl
  | cons off offs ih =>
    have hfirst := (s.handOff_acts off.1 off.2).proof (hp.imp_right fun h => h off List.mem_cons_self) hpulse
    exact (ih (hp.imp (hfirst ▸ ·) fun h o ho => hfirst ▸ h o (List.mem_cons_of_mem _ ho)) (hfirst ▸ hpulse)).trans hfirst

theorem State.Follows.foldl_handOff {offs : List (Nat × Evaluability)} (h : s.Follows p z g) (hp : p.Pends z g)
    (hz : z ∉ offs.map Prod.fst) : (offs.foldl (fun t off => t.handOff off.1 off.2) s).Follows p z g := by
  induction offs generalizing s with
  | nil => exact h
  | cons off offs ih =>
    rw [List.map_cons, List.mem_cons, not_or] at hz
    exact ih (h.handOff_other hp hz.1 off.2) hz.2

theorem State.Awaits.foldl_handOff {offs : List (Nat × Evaluability)} (h : s.Awaits p z) (hp : p.Pends z g)
    (hnodup : (offs.map Prod.fst).Nodup) : (offs.foldl (fun t off => t.handOff off.1 off.2) s).Follows p z g := by
  induction offs generalizing s with
  | nil => exact .inl h
  | cons off offs ih =>
    obtain ⟨hoff, hoffs⟩ := List.nodup_cons.mp hnodup
    by_cases hz : z = off.1
    · subst hz
      exact (h.handOff hp off.2).foldl_handOff hp hoff
    · exact ih (h.acts hp (s.handOff_acts off.1 off.2) hz (s.handOff_keeps off.1 off.2)) hoffs

theorem State.replaceTopology_state (s : State) (f : Fin 4) (z : Nat) :
    ((s.replaceTopology f).zone? z).map (·.run.state) = (s.zone? z).map (·.run.state) := by
  rw [State.zone?_replaceTopology]
  split
  · rw [Option.map_map]
    rfl
  · rfl

/-- A recomputation hands the proof's zone off once at most. -/
theorem State.Awaits.recompute (h : s.Awaits p z) (hp : p.Pends z g) (f : Fin 4) : (s.recompute f).Follows p z g :=
  State.Awaits.foldl_handOff (h.of_same rfl (s.replaceTopology_state f z)) hp
    ((s.handOffs_ascending f).imp Nat.ne_of_lt)

/-- A recomputation of another feeder leaves the proof and its zone. -/
theorem State.Follows.recompute_other (h : s.Follows p z g) (hp : p.Pends z g) (hz : z ∉ s.active.zonesOf f) :
    (s.recompute f).proof = s.proof ∧ (s.recompute f).zone? z = s.zone? z := by
  refine ⟨State.foldl_handOff_proof (s := s.replaceTopology f) ?_ ?_, by rw [State.zone?_recompute, if_neg hz]⟩
  · obtain h | h := h
    · refine .inr fun off hoff htarget => hz ?_
      have hproof : (s.replaceTopology f).proof = p := h.1
      rw [hproof, hp.target] at htarget
      exact Option.some.inj htarget ▸ (State.mem_handOffs.mp hoff).1
    · have hproof : (s.replaceTopology f).proof = p.abandoned g := h.1
      exact .inl (by rw [hproof]; exact nofun)
  · have hproof : (s.replaceTopology f).proof = s.proof := rfl
    rw [hproof]
    obtain h | h := h
    · rw [h.1, hp.state]; exact nofun
    · rw [h.1]; exact nofun

theorem State.Awaits.recomputeAll (h : s.Awaits p z) (hp : p.Pends z g) : s.recomputeAll.Follows p z g := by
  have hothers (fs : List (Fin 4)) : ∀ t : State, t.active = s.active → t.Follows p z g →
      (∀ f ∈ fs, z ∉ s.active.zonesOf f) → (fs.foldl State.recompute t).Follows p z g := by
    induction fs with
    | nil => exact fun _ _ ht _ => ht
    | cons f fs ih =>
      intro t ha ht hnot
      obtain ⟨hf, hfs⟩ := List.forall_mem_cons.mp hnot
      obtain ⟨hproof, hzone⟩ := ht.recompute_other hp (f := f) (by rw [ha]; exact hf)
      exact ih _ ((t.recompute_outside f).active.trans ha) (ht.of_same hproof hzone) hfs
  have hall (fs : List (Fin 4)) (hfs : fs.Nodup) : ∀ t : State, t.active = s.active → t.Awaits p z →
      (fs.foldl State.recompute t).Follows p z g := by
    induction fs with
    | nil => exact fun _ _ ht => .inl ht
    | cons f fs ih =>
      intro t ha ht
      obtain ⟨hf, hfs⟩ := List.nodup_cons.mp hfs
      have ha' := (t.recompute_outside f).active.trans ha
      by_cases hz : z ∈ s.active.zonesOf f
      · exact hothers fs _ ha' (ht.recompute hp f) fun k hk hzk => hf (Tables.zonesOf_disjoint hz hzk ▸ hk)
      · obtain ⟨hproof, hzone⟩ := State.Follows.recompute_other (.inl ht) hp (f := f) (by rw [ha]; exact hz)
        exact ih hfs _ ha' (ht.of_same hproof (by rw [hzone]))
  exact hall _ s.active.usedFeeders_nodup s rfl h

end

end Sys2Proof.Machine

/-!
A pending zone proof through every command (R100, R177, R179), ACTIVATE among them (R160).
-/

namespace Sys2Proof.Machine

/-! ## What a command does to the proof and its zone -/

section
variable {s t u : State} {c : Instr} {p : Proof} {z : Nat} {g : Byte} {f : Fin 4}

theorem Small.state (h : Small s t) (z : Nat) : (t.zone? z).map (·.run.state) = (s.zone? z).map (·.run.state) := by
  cases h with
  | stream | counters | forward | sensorNext | staged | feeders | setNode | raise => rfl
  | record => rw [State.pushRecord_eq]; rfl
  | trigger => rw [State.raiseTrigger_frame]; rfl
  | quiet w x hquiet =>
    rw [State.zone?_modZone]
    split
    · rename_i hz
      subst hz
      cases hx : s.zone? z with
      | none => rfl
      | some x => exact congrArg some (hquiet x hx).state
    · rfl

theorem Smalls.state (h : Smalls s t) (z : Nat) : (t.zone? z).map (·.run.state) = (s.zone? z).map (·.run.state) := by
  induction h with
  | refl => rfl
  | tail _ hstep ih => exact (hstep.state z).trans ih

theorem State.Awaits.smalls (h : s.Awaits p z) (hs : Smalls s t) : t.Awaits p z := h.of_same hs.proof.1 (hs.state z)

/-- A recomputation of the lines leaves a proof that is no pulse. -/
theorem State.Awaits.recomputeLines (h : s.Awaits p z) (hp : p.Pends z g) : s.recomputeLines.Awaits p z :=
  h.of_same (State.recomputeLines_takenOver_of_no_pulse (by rw [h.1, hp.state]; exact nofun)) rfl

theorem State.Awaits.changeNode (h : s.Awaits p z) (hp : p.Pends z g) (i : Nat) (f : Fin 4) (n m : NodeRun) :
    (s.changeNode i f n m).Follows p z g := by
  have hset : (s.setNode i m).Awaits p z := h.of_same rfl rfl
  unfold State.changeNode
  split
  · exact .inl hset
  · exact hset.recompute hp f

/-- A zone in another state than the proof waits in is another zone. -/
theorem State.Awaits.ne_of_state (h : s.Awaits p z) {w : Nat} {x : Zone} (hx : s.zone? w = some x) (hs : ¬x.Waits) :
    z ≠ w := by
  rintro rfl
  exact hs (h.2 x hx)

theorem Zone.not_waits_of_tripped {x : Zone} (h : x.isTripped = true) : ¬x.Waits := by
  obtain h | h := Zone.isTripped_iff.mp h <;> simp [Zone.Waits, h]

/-- Whatever a command does but CANCEL PROOF and ACTIVATE, the proof follows its zone. -/
theorem Effect.follows (h : Effect s c t) (hs : s.Awaits p z) (hp : p.Pends z g)
    (hcancel : ∀ tag params, c ≠ .cancelProof tag params) (hactivate : ∀ tag params, c ≠ .activate tag params) :
    t.Follows p z g := by
  have hpending : s.proof.state = .zonePending := by rw [hs.1, hp.state]
  cases h with
  | small h => exact .inl (hs.smalls h)
  | changeNode h => exact (hs.smalls h).changeNode hp _ _ _ _
  | @blindTrip w x hx hstate =>
    have hw := hs.ne_of_state hx (by simp [Zone.Waits, hstate])
    have hraised : ((s.modRun w ZoneRecord.blinded).raise w .trip).Awaits p z :=
      hs.of_same rfl (by rw [State.zone?_raise, State.zone?_modRun, if_neg hw])
    exact .inl (hraised.recomputeLines hp)
  | @presence _ u q d h =>
    have hmoved : State.Awaits { u with presence := q, presenceDeadline := d } p z := (hs.smalls h).of_same rfl rfl
    exact .inl (hmoved.recomputeLines hp)
  | @release _ _ i _ x trips memory _ _ hx ht =>
    have hw := hs.ne_of_state hx (Zone.not_waits_of_tripped ht)
    have hreleased : (s.released i.toNat trips memory).Awaits p z := by
      have hzone : (s.released i.toNat trips memory).zone? z = s.zone? z := by rw [State.zone?_released, if_neg hw]
      refine hs.of_same ?_ (by rw [hzone])
      exact State.recomputeLines_takenOver_of_no_pulse (s := (s.modZone i.toNat _).raise i.toNat .cleared)
        (by show s.proof.state ≠ _; rw [hpending]; exact nofun)
    rw [State.release_eq_handOff hx]
    exact State.Follows.handOff_other (.inl hreleased) hp hw _
  | free => exact .inl hs
  | proveZone h | proveLine h => exact nomatch hpending.symm.trans h
  | cancelZone | cancelPulse => exact absurd rfl (hcancel _ _)
  | activate => exact absurd rfl (hactivate _ _)

/-! ## What is left when the event ends -/

/-- The proof stands where its zone waits, else it has ended ABANDONED. -/
def State.Settled (t : State) (p : Proof) (z : Nat) (g : Byte) : Prop :=
  ∀ y, t.zone? z = some y → (y.Waits → t.proof = p) ∧ (¬y.Waits → t.Abandoned 0x38 g)

theorem State.Awaits.settled (h : s.Awaits p z) : s.Settled p z g :=
  fun y hy => ⟨fun _ => h.1, fun hnot => absurd (h.2 y hy) hnot⟩

/-- An abandoned proof completes within the event, or waits behind a full reply queue (R179). -/
theorem State.flushHeld_abandoned (h : s.proof = p.abandoned g) : s.flushHeld.Abandoned 0x38 g := by
  have hwaits : s.proof.state = .completionWaiting := by rw [h]; rfl
  have hheld : s.proof.held = some ⟨0x38, g, .abandoned, []⟩ := by rw [h]; rfl
  by_cases room : s.replies.length < Config.replyCapacity
  · rw [State.flushHeld_of_room hwaits room, hheld]
    exact .inl ⟨rfl, by simp⟩
  · have hfull := Nat.le_of_not_lt room
    rw [State.flushHeld_of_full hfull]
    exact .inr ⟨hfull, hwaits, hheld⟩

theorem State.Follows.settled (h : s.Follows p z g) (hp : p.Pends z g) : s.flushHeld.Settled p z g := by
  obtain h | h := h
  · rw [State.flushHeld_of_not_waiting (by rw [h.1, hp.state]; exact nofun)]
    exact h.settled
  · intro y hy
    exact ⟨fun hwaits => absurd hwaits (h.2 y hy), fun _ => State.flushHeld_abandoned h.1⟩

/-- The expiry of another feeder leaves the proof and its zone (R61). -/
theorem State.Awaits.feederExpiry (h : s.Awaits p z) (hp : p.Pends z g) {r : NodeRec} (hr : s.active.node? z = some r)
    (hf : r.feeder ≠ f) : (s.feederExpiry f).Awaits p z := by
  have hlatched : (s.latchMode f).Awaits p z := h.smalls (s.latchMode_smalls f)
  have hfeeder : (s.latchMode f).feederOf z = r.feeder := by
    rw [State.latchMode_eq]
    simp [State.feederOf, hr]
  have hnone : (s.latchMode f).pendingProof f = none := by
    simp [State.pendingProof, hlatched.1, hp.target, hfeeder, hf]
  have harmed : (s.armed f).Awaits p z := by
    have hshadow : (s.latchMode f).shadowEvaluation f = s.latchMode f := by simp only [State.shadowEvaluation, hnone]
    rw [State.armed, hshadow]
    exact hlatched.of_same rfl rfl
  have hz : z ∉ s.active.zonesOf f := by
    intro hz
    obtain ⟨q, hq, hqf⟩ := Tables.mem_zonesOf.mp hz
    obtain rfl := Option.some.inj (hr.symm.trans (Tables.node?_of_position? hq))
    exact hf hqf
  have hfold (zs : List Nat) : ∀ t : State, t.Awaits p z → z ∉ zs → (zs.foldl State.evaluateZone t).Awaits p z := by
    induction zs with
    | nil => exact fun _ ht _ => ht
    | cons w zs ih =>
      intro t ht hnot
      rw [List.mem_cons, not_or] at hnot
      exact ih _ (ht.acts hp (t.evaluateZone_acts w) hnot.1 (t.evaluateZone_keeps w)) hnot.2
  have hevaluated := hfold _ _ harmed hz
  rw [State.feederExpiry_eq, State.flushHeld_of_not_waiting (by rw [hevaluated.1, hp.state]; exact nofun)]
  exact hevaluated

theorem State.Awaits.chooseNext (h : s.Awaits p z) (hp : p.Pends z g) : s.chooseNext.Awaits p z := by
  have hproof : s.chooseNext.proof = s.proof := by
    have hnot : s.proof.state ≠ .completionWaiting := by rw [h.1, hp.state]; exact nofun
    have hflush (u : State) (hu : u.proof = s.proof) : u.flushHeld.proof = s.proof := by
      rw [State.flushHeld_of_not_waiting (hu ▸ hnot), hu]
    unfold State.chooseNext
    split
    · rfl
    · exact hflush _ rfl
    · rfl
    · rfl
  refine h.of_same hproof ?_
  rw [State.chooseNext_eq]
  rfl

/-- A pending zone proof after any command but those that end it another way. -/
theorem Did.settled {r : NodeRec} (h : Did s c t) (hs : s.Awaits p z) (hp : p.Pends z g) (hr : s.active.node? z = some r)
    (hexpiry : c ≠ .feederEvaluationExpiry r.feeder) (hrouting : c ≠ .controllerFrameRouting)
    (hreset : ∀ strap, c ≠ .hardReset strap) (hactivate : ∀ tag params, c ≠ .activate tag params)
    (hcancel : ∀ tag params, c ≠ .cancelProof tag params) (hrestart : ∀ tag params, c ≠ .restartEngine tag params) :
    t.Settled p z g := by
  cases h with
  | hardReset => exact absurd rfl (hreset _)
  | event h hproof =>
    obtain hawaits | hgave := h.follows hs hp hcancel hactivate
    · exact hawaits.settled
    · have hstate := congrArg Proof.state hproof
      rw [hgave.1, hs.1] at hstate
      exact nomatch hstate.trans hp.state
  | flushed h => exact (h.follows hs hp hcancel hactivate).settled hp
  | @answered _ u code tag status data _ h =>
    have hanswered : (u.answer code tag status data).Follows p z g := (h.follows hs hp hcancel hactivate).of_same rfl rfl
    exact hanswered.settled hp
  | @feederExpiry f => exact (hs.feederExpiry hp hr fun hf => hexpiry (hf ▸ rfl)).settled
  | pulseExpiry h =>
    rw [hs.1, hp.state] at h
    exact nomatch h
  | transmit => exact (hs.chooseNext hp).settled
  | restart => exact absurd rfl (hrestart _ _)
  | queued | routed => exact absurd rfl hrouting

/-! ## ACTIVATE -/

/-- The proof record follows a kept zone to its new index (R160, step 5). -/
theorem State.exchanged_awaits {x : Zone} {j : Nat} (hs : s.proof.Pends z g) (hx : s.zone? z = some x) (hwaits : x.Waits)
    (hj : keptTo s.active s.staged z = some j) : s.exchanged.Awaits { s.proof with target := some j } j := by
  have hpending : s.swapTables.proof.state = .zonePending := hs.state
  have htarget : s.swapTables.proof.target.bind (keptTo s.active s.swapTables.active) = some j := by
    show s.proof.target.bind _ = _
    rw [hs.target]
    exact hj
  refine ⟨?_, fun y hy => ?_⟩
  · rw [State.exchanged, State.reconcileProof, if_pos hpending, htarget]
    rfl
  · rw [State.zone?_exchanged] at hy
    obtain ⟨r, -, rfl⟩ := Option.map_eq_some_iff.mp hy
    rw [reconcileZone_of_kept (keptTo_some hj).2 hx]
    exact hwaits

/-- With a dropped zone the proof ends (R160, step 5). -/
theorem State.exchanged_dropped (hs : s.proof.Pends z g) (hj : keptTo s.active s.staged z = none) :
    s.exchanged.proof = s.proof.abandoned g := by
  have hpending : s.swapTables.proof.state = .zonePending := hs.state
  have htarget : s.swapTables.proof.target.bind (keptTo s.active s.swapTables.active) = none := by
    show s.proof.target.bind _ = _
    rw [hs.target]
    exact hj
  rw [State.exchanged, State.reconcileProof, if_pos hpending, htarget]
  exact State.completeProof_proof (s := s.swapTables) hs.kind hs.tag .abandoned []

theorem State.activate_answer (s : State) (h : s.exchanged.recomputeAll.proof.state ≠ .pulseRunning) (code tag : Byte)
    (status : Status) (data : List Byte) :
    (s.activate.answer code tag status data).proof = s.exchanged.recomputeAll.proof
      ∧ ∀ j, (s.activate.answer code tag status data).zone? j = s.exchanged.recomputeAll.zone? j := by
  refine ⟨?_, fun j => s.zone?_activate j⟩
  rw [State.answer, State.pushReply_proof, State.activate_eq]
  exact State.recomputeLines_takenOver_of_no_pulse h

end

/-- Settles O4: every command by what it does to the proof and its zone; ACTIVATE by the exchange, then the hand-offs. -/
theorem pendingProofEndsWithItsZone : Obligations.PendingProofEndsWithItsZone := by
  intro s t z x r g hstate hkind htarget htag hr hx hwaits
  have hp : s.proof.Pends z g := ⟨hstate, hkind, htarget, htag⟩
  have hawaits : s.Awaits s.proof z := ⟨rfl, fun y hy => Option.some.inj (hx.symm.trans hy) ▸ hwaits⟩
  refine ⟨fun c y hexec hexpiry hrouting hreset hactivate hcancel hrestart hy => ?_,
    fun tag hexec htake hvalid hkept => ?_⟩
  · obtain ⟨hstands, hends⟩ :=
      (exec_did hexec).settled hawaits hp hr hexpiry hrouting hreset hactivate hcancel hrestart y hy
    exact ⟨hstands, fun hn hs => hends fun h => h.elim hn hs⟩
  · obtain rfl := Host.Outcome.next.inj ((execActivate_of_success htake hvalid hkept).symm.trans hexec)
    refine ⟨fun hdropped => ?_, fun j y hj hy => ?_⟩
    · have hexchanged := State.exchanged_dropped hp hdropped
      have hproof := (State.recomputeAll_proof (s := s.exchanged) (by rw [hexchanged]; exact nofun)).trans hexchanged
      obtain ⟨hanswer, -⟩ := s.activate_answer (by rw [hproof]; exact nofun) 0x16 tag .done []
      exact State.flushHeld_abandoned (hanswer.trans hproof)
    · have hpends : Proof.Pends { s.proof with target := some j } j g := ⟨hstate, hkind, rfl, htag⟩
      have hfollows := (State.exchanged_awaits hp hx hwaits hj).recomputeAll hpends
      obtain ⟨hanswer, hzones⟩ := s.activate_answer (by
        obtain h | h := hfollows
        · rw [h.1, hpends.state]; exact nofun
        · rw [h.1]; exact nofun) 0x16 tag .done []
      have hsettled := (hfollows.of_same hanswer (hzones j)).settled hpends
      obtain ⟨hstands, hends⟩ := hsettled y hy
      exact ⟨hstands, fun hn hs => hends fun h => h.elim hn hs⟩

end Sys2Proof.Machine
